-- ==== Sys2Proof/Word.lean ====
section
/-! DEFINITION. The widths of SSU-CORE's words: a cell, a value of N cells, a register number, the
command word and the data word. -/

namespace Sys2Proof

/-- One cell: 8 bits (R14). -/
abbrev Byte := BitVec 8

/-- A value of `W = 8N` bits, that is, N cells; cell 0 is the least significant (R6, R14). -/
abbrev Value (N : Nat) := BitVec (8 * N)

/-- The number r of value register xr, 0 ≤ r ≤ 15 (R30, R83). -/
abbrev Reg := Fin 16

/-- The 32-bit command word CMD (R80). -/
abbrev Cmd := BitVec 32

/-- The 64-bit data word DIN (R8). -/
abbrev Din := BitVec 64

end Sys2Proof
end

