-- ==== Sys2Proof/Syntax.lean ====
section
/-! DEFINITION. The commands of SSU-CORE, one constructor for each row of spec/opcode_table.json (R88).

A command is a CMD word with its DIN word (R80). GETB, SETB and LDN read DIN, so their constructors
carry it; no other command does (R81, R87; log entry 13). -/

namespace Sys2Proof

/-- A command, with its operands in the order of the assembler's syntax (R96). -/
inductive Instr where
  -- byte-storage core (40_storage.md)
  /-- R110 -/
  | msb (rs1 : Reg)
  /-- R111 -/
  | msbns (rs1 : Reg)
  /-- R112 -/
  | isneg (rs1 : Reg)
  /-- R113 -/
  | flips (rd rs1 : Reg)
  /-- R115; idx is DIN -/
  | getb (rs1 : Reg) (idx : Din)
  /-- R116; idx is DIN -/
  | setb (rd : Reg) (idx : Din) (imm8 : Byte)
  /-- R114 -/
  | mov (rd rs1 : Reg)
  -- bitwise engine (41_bitwise.md)
  /-- R130 -/
  | not (rd rs1 : Reg)
  /-- R131 -/
  | and (rd rs1 rs2 : Reg)
  /-- R132 -/
  | or (rd rs1 rs2 : Reg)
  /-- R133 -/
  | xor (rd rs1 rs2 : Reg)
  /-- R134 -/
  | shl1 (rd rs1 : Reg)
  /-- R135 -/
  | shr1 (rd rs1 : Reg)
  /-- R137 -/
  | shl (rd rs1 rs2 : Reg)
  /-- R138 -/
  | shr (rd rs1 rs2 : Reg)
  -- arithmetic engine (42_arithmetic.md)
  /-- R153 -/
  | inc (rd rs1 : Reg)
  /-- R154 -/
  | dec (rd rs1 : Reg)
  /-- R155 -/
  | neg (rd rs1 : Reg)
  /-- R156 -/
  | add (rd rs1 rs2 : Reg)
  /-- R157 -/
  | sub (rd rs1 rs2 : Reg)
  /-- R158 -/
  | mul (rd rs1 rs2 : Reg)
  /-- R159 -/
  | div (rd rs1 rs2 : Reg)
  /-- R160 -/
  | mod (rd rs1 rs2 : Reg)
  -- comparison engine (43_comparison.md)
  /-- R181 -/
  | eq (rs1 rs2 : Reg)
  /-- R182 -/
  | lt (rs1 rs2 : Reg)
  /-- R183 -/
  | le (rs1 rs2 : Reg)
  /-- R184 -/
  | gt (rs1 rs2 : Reg)
  /-- R185 -/
  | ge (rs1 rs2 : Reg)
  -- construction and conversion (44_construction.md); value is DIN
  /-- R200 -/
  | zero (rd : Reg)
  /-- R201 -/
  | one (rd : Reg)
  /-- R202, S = 0, wcode = 0b00 -/
  | ldnU8 (rd : Reg) (value : Din)
  /-- R202, S = 0, wcode = 0b01 -/
  | ldnU16 (rd : Reg) (value : Din)
  /-- R202, S = 0, wcode = 0b10 -/
  | ldnU32 (rd : Reg) (value : Din)
  /-- R202, S = 0, wcode = 0b11 -/
  | ldnU64 (rd : Reg) (value : Din)
  /-- R202, S = 1, wcode = 0b00 -/
  | ldnS8 (rd : Reg) (value : Din)
  /-- R202, S = 1, wcode = 0b01 -/
  | ldnS16 (rd : Reg) (value : Din)
  /-- R202, S = 1, wcode = 0b10 -/
  | ldnS32 (rd : Reg) (value : Din)
  /-- R202, S = 1, wcode = 0b11 -/
  | ldnS64 (rd : Reg) (value : Din)
  /-- R203 -/
  | bool (rs1 : Reg)
deriving DecidableEq, Repr

end Sys2Proof
end

