-- ==== Sys2Proof/Decode.lean ====
section
/-! DEFINITION. Decoding a command (R88 to R94), the encoder, and the opcode map as a table of masks.

Decoding is total: a word that is no command is rejected by name (R89, R90). -/

namespace Sys2Proof

/-- Why a word is no command; both raise ILLEGAL_COMMAND (R222). -/
inductive DecodeError where
  /-- R89: `op` is reserved. -/
  | reservedOpcode
  /-- R90: a nonzero bit in a must-be-zero field of the opcode's form. -/
  | mustBeZero
deriving DecidableEq, Repr

/-- The seven operand forms of R84. -/
inductive Form where
  | rrr | rr | cc | q | d | ld | sb
deriving DecidableEq, Repr

/-- The must-be-zero mask of a form (R84). -/
def Form.mbz : Form → Cmd
  | .rrr => 0x00003FFF
  | .rr => 0x0003FFFF
  | .cc => 0x03C03FFF
  | .q => 0x03C3FFFF
  | .d => 0x003FFFFF
  | .ld => 0x003FFFF8
  | .sb => 0x003FFF00

/-- The register number in the four bits of a word from bit `lo` up (R83). -/
def regField (cmd : Cmd) (lo : Nat) : Reg := (cmd.extractLsb' lo 4).toFin

/-- The operand fields of a command: those of the word (R93), and the DIN that came with it. -/
structure Fields where
  rd : Reg
  rs1 : Reg
  rs2 : Reg
  wcode : BitVec 2
  s : Bool
  imm8 : Byte
  din : Din
deriving DecidableEq, Repr

/-- Field extraction (R93). -/
def fields (cmd : Cmd) (din : Din) : Fields where
  rd := regField cmd 22
  rs1 := regField cmd 18
  rs2 := regField cmd 14
  wcode := cmd.extractLsb' 0 2
  s := cmd.getLsbD 2
  imm8 := cmd.extractLsb' 0 8
  din := din

/-- The opcode field `CMD[31:26]` (R93). -/
def opField (cmd : Cmd) : BitVec 6 := cmd.extractLsb' 26 6

/-- LDN by its signedness S and width code (R85: k = 2^wcode bytes). -/
def ldnOf (f : Fields) : Instr :=
  match f.s, f.wcode with
  | false, 0b00 => .ldnU8 f.rd f.din
  | false, 0b01 => .ldnU16 f.rd f.din
  | false, 0b10 => .ldnU32 f.rd f.din
  | false, 0b11 => .ldnU64 f.rd f.din
  | true, 0b00 => .ldnS8 f.rd f.din
  | true, 0b01 => .ldnS16 f.rd f.din
  | true, 0b10 => .ldnS32 f.rd f.din
  | true, 0b11 => .ldnS64 f.rd f.din

/-- The opcode map of R88: the form of an assigned opcode and the command its fields make; a reserved
opcode has none (R89). -/
def opcodeMap (op : BitVec 6) : Option (Form × (Fields → Instr)) :=
  match op with
  | 0x01 => some (.q, fun f => .msb f.rs1)
  | 0x02 => some (.q, fun f => .msbns f.rs1)
  | 0x03 => some (.q, fun f => .isneg f.rs1)
  | 0x04 => some (.rr, fun f => .flips f.rd f.rs1)
  | 0x05 => some (.q, fun f => .getb f.rs1 f.din)
  | 0x06 => some (.sb, fun f => .setb f.rd f.din f.imm8)
  | 0x07 => some (.rr, fun f => .mov f.rd f.rs1)
  | 0x08 => some (.rr, fun f => .not f.rd f.rs1)
  | 0x09 => some (.rrr, fun f => .and f.rd f.rs1 f.rs2)
  | 0x0A => some (.rrr, fun f => .or f.rd f.rs1 f.rs2)
  | 0x0B => some (.rrr, fun f => .xor f.rd f.rs1 f.rs2)
  | 0x0C => some (.rr, fun f => .shl1 f.rd f.rs1)
  | 0x0D => some (.rr, fun f => .shr1 f.rd f.rs1)
  | 0x0E => some (.rrr, fun f => .shl f.rd f.rs1 f.rs2)
  | 0x0F => some (.rrr, fun f => .shr f.rd f.rs1 f.rs2)
  | 0x10 => some (.rr, fun f => .inc f.rd f.rs1)
  | 0x11 => some (.rr, fun f => .dec f.rd f.rs1)
  | 0x12 => some (.rr, fun f => .neg f.rd f.rs1)
  | 0x13 => some (.rrr, fun f => .add f.rd f.rs1 f.rs2)
  | 0x14 => some (.rrr, fun f => .sub f.rd f.rs1 f.rs2)
  | 0x15 => some (.rrr, fun f => .mul f.rd f.rs1 f.rs2)
  | 0x16 => some (.rrr, fun f => .div f.rd f.rs1 f.rs2)
  | 0x17 => some (.rrr, fun f => .mod f.rd f.rs1 f.rs2)
  | 0x18 => some (.cc, fun f => .eq f.rs1 f.rs2)
  | 0x19 => some (.cc, fun f => .lt f.rs1 f.rs2)
  | 0x1A => some (.cc, fun f => .le f.rs1 f.rs2)
  | 0x1B => some (.cc, fun f => .gt f.rs1 f.rs2)
  | 0x1C => some (.cc, fun f => .ge f.rs1 f.rs2)
  | 0x20 => some (.d, fun f => .zero f.rd)
  | 0x21 => some (.d, fun f => .one f.rd)
  | 0x22 => some (.ld, ldnOf)
  | 0x23 => some (.q, fun f => .bool f.rs1)
  | _ => none

/-- Decoding, in the order of R94: the opcode is assigned, no must-be-zero bit is set, then the
command of its fields. -/
def decode (cmd : Cmd) (din : Din) : Except DecodeError Instr :=
  match opcodeMap (opField cmd) with
  | none => .error .reservedOpcode
  | some (form, make) =>
    if cmd &&& form.mbz ≠ 0 then .error .mustBeZero else .ok (make (fields cmd din))

/-! ## The encoder -/

/-- A word of the one format of R82, from its fields. -/
def word (op : BitVec 6) (rd rs1 rs2 : Reg) (aux : BitVec 14) : Cmd :=
  op ++ (BitVec.ofFin rd : BitVec 4) ++ (BitVec.ofFin rs1 : BitVec 4) ++
    (BitVec.ofFin rs2 : BitVec 4) ++ aux

/-- LDN's aux field: `aux[2] = S`, `aux[1:0] = wcode` (R85). -/
def ldnAux (s : Bool) (wcode : BitVec 2) : BitVec 14 := (0 : BitVec 11) ++ BitVec.ofBool s ++ wcode

/-- The CMD and DIN words of a command; DIN is 0 where the command does not read it (R96). -/
def encode : Instr → Cmd × Din
  | .msb rs1 => (word 0x01 0 rs1 0 0, 0)
  | .msbns rs1 => (word 0x02 0 rs1 0 0, 0)
  | .isneg rs1 => (word 0x03 0 rs1 0 0, 0)
  | .flips rd rs1 => (word 0x04 rd rs1 0 0, 0)
  | .getb rs1 idx => (word 0x05 0 rs1 0 0, idx)
  | .setb rd idx imm8 => (word 0x06 rd 0 0 ((0 : BitVec 6) ++ imm8), idx)
  | .mov rd rs1 => (word 0x07 rd rs1 0 0, 0)
  | .not rd rs1 => (word 0x08 rd rs1 0 0, 0)
  | .and rd rs1 rs2 => (word 0x09 rd rs1 rs2 0, 0)
  | .or rd rs1 rs2 => (word 0x0A rd rs1 rs2 0, 0)
  | .xor rd rs1 rs2 => (word 0x0B rd rs1 rs2 0, 0)
  | .shl1 rd rs1 => (word 0x0C rd rs1 0 0, 0)
  | .shr1 rd rs1 => (word 0x0D rd rs1 0 0, 0)
  | .shl rd rs1 rs2 => (word 0x0E rd rs1 rs2 0, 0)
  | .shr rd rs1 rs2 => (word 0x0F rd rs1 rs2 0, 0)
  | .inc rd rs1 => (word 0x10 rd rs1 0 0, 0)
  | .dec rd rs1 => (word 0x11 rd rs1 0 0, 0)
  | .neg rd rs1 => (word 0x12 rd rs1 0 0, 0)
  | .add rd rs1 rs2 => (word 0x13 rd rs1 rs2 0, 0)
  | .sub rd rs1 rs2 => (word 0x14 rd rs1 rs2 0, 0)
  | .mul rd rs1 rs2 => (word 0x15 rd rs1 rs2 0, 0)
  | .div rd rs1 rs2 => (word 0x16 rd rs1 rs2 0, 0)
  | .mod rd rs1 rs2 => (word 0x17 rd rs1 rs2 0, 0)
  | .eq rs1 rs2 => (word 0x18 0 rs1 rs2 0, 0)
  | .lt rs1 rs2 => (word 0x19 0 rs1 rs2 0, 0)
  | .le rs1 rs2 => (word 0x1A 0 rs1 rs2 0, 0)
  | .gt rs1 rs2 => (word 0x1B 0 rs1 rs2 0, 0)
  | .ge rs1 rs2 => (word 0x1C 0 rs1 rs2 0, 0)
  | .zero rd => (word 0x20 rd 0 0 0, 0)
  | .one rd => (word 0x21 rd 0 0 0, 0)
  | .ldnU8 rd value => (word 0x22 rd 0 0 (ldnAux false 0b00), value)
  | .ldnU16 rd value => (word 0x22 rd 0 0 (ldnAux false 0b01), value)
  | .ldnU32 rd value => (word 0x22 rd 0 0 (ldnAux false 0b10), value)
  | .ldnU64 rd value => (word 0x22 rd 0 0 (ldnAux false 0b11), value)
  | .ldnS8 rd value => (word 0x22 rd 0 0 (ldnAux true 0b00), value)
  | .ldnS16 rd value => (word 0x22 rd 0 0 (ldnAux true 0b01), value)
  | .ldnS32 rd value => (word 0x22 rd 0 0 (ldnAux true 0b10), value)
  | .ldnS64 rd value => (word 0x22 rd 0 0 (ldnAux true 0b11), value)
  | .bool rs1 => (word 0x23 0 rs1 0 0, 0)

/-! ## The opcode map as masks

R88's `match` and `mask` columns, row by row as spec/opcode_table.json has them. The decoder does not
use them: they say a second time, in the table's own terms, what a command's word is (R91). -/

/-- A row: a word is the row's when `word AND mask = pattern`. -/
structure Row where
  mnemonic : String
  mask : Cmd
  pattern : Cmd
deriving DecidableEq, Repr

/-- Byte-storage core rows of R88. -/
def storageRows : List Row :=
  [
    ⟨"msb", 0xFFC3FFFF, 0x04000000⟩,
    ⟨"msbns", 0xFFC3FFFF, 0x08000000⟩,
    ⟨"isneg", 0xFFC3FFFF, 0x0C000000⟩,
    ⟨"flips", 0xFC03FFFF, 0x10000000⟩,
    ⟨"getb", 0xFFC3FFFF, 0x14000000⟩,
    ⟨"setb", 0xFC3FFF00, 0x18000000⟩,
    ⟨"mov", 0xFC03FFFF, 0x1C000000⟩ ]

/-- Bitwise engine rows of R88. -/
def bitwiseRows : List Row :=
  [
    ⟨"not", 0xFC03FFFF, 0x20000000⟩,
    ⟨"and", 0xFC003FFF, 0x24000000⟩,
    ⟨"or", 0xFC003FFF, 0x28000000⟩,
    ⟨"xor", 0xFC003FFF, 0x2C000000⟩,
    ⟨"shl1", 0xFC03FFFF, 0x30000000⟩,
    ⟨"shr1", 0xFC03FFFF, 0x34000000⟩,
    ⟨"shl", 0xFC003FFF, 0x38000000⟩,
    ⟨"shr", 0xFC003FFF, 0x3C000000⟩ ]

/-- Arithmetic engine rows of R88. -/
def arithmeticRows : List Row :=
  [
    ⟨"inc", 0xFC03FFFF, 0x40000000⟩,
    ⟨"dec", 0xFC03FFFF, 0x44000000⟩,
    ⟨"neg", 0xFC03FFFF, 0x48000000⟩,
    ⟨"add", 0xFC003FFF, 0x4C000000⟩,
    ⟨"sub", 0xFC003FFF, 0x50000000⟩,
    ⟨"mul", 0xFC003FFF, 0x54000000⟩,
    ⟨"div", 0xFC003FFF, 0x58000000⟩,
    ⟨"mod", 0xFC003FFF, 0x5C000000⟩ ]

/-- Comparison engine rows of R88. -/
def comparisonRows : List Row :=
  [
    ⟨"eq", 0xFFC03FFF, 0x60000000⟩,
    ⟨"lt", 0xFFC03FFF, 0x64000000⟩,
    ⟨"le", 0xFFC03FFF, 0x68000000⟩,
    ⟨"gt", 0xFFC03FFF, 0x6C000000⟩,
    ⟨"ge", 0xFFC03FFF, 0x70000000⟩ ]

/-- Construction and conversion rows of R88; LDN's eight variants are rows of their own. -/
def constructionRows : List Row :=
  [
    ⟨"zero", 0xFC3FFFFF, 0x80000000⟩,
    ⟨"one", 0xFC3FFFFF, 0x84000000⟩,
    ⟨"ldn.u8", 0xFC3FFFFF, 0x88000000⟩,
    ⟨"ldn.u16", 0xFC3FFFFF, 0x88000001⟩,
    ⟨"ldn.u32", 0xFC3FFFFF, 0x88000002⟩,
    ⟨"ldn.u64", 0xFC3FFFFF, 0x88000003⟩,
    ⟨"ldn.s8", 0xFC3FFFFF, 0x88000004⟩,
    ⟨"ldn.s16", 0xFC3FFFFF, 0x88000005⟩,
    ⟨"ldn.s32", 0xFC3FFFFF, 0x88000006⟩,
    ⟨"ldn.s64", 0xFC3FFFFF, 0x88000007⟩,
    ⟨"bool", 0xFFC3FFFF, 0x8C000000⟩ ]

/-- All 39 rows. -/
def opcodeRows : List Row :=
  storageRows ++ bitwiseRows ++ arithmeticRows ++ comparisonRows ++ constructionRows

/-- The word matches the row under its mask. -/
def Row.holds (r : Row) (cmd : Cmd) : Bool := cmd &&& r.mask == r.pattern

/-- The table's mnemonic of a command. -/
def Instr.mnemonic : Instr → String
  | .msb _ => "msb"
  | .msbns _ => "msbns"
  | .isneg _ => "isneg"
  | .flips _ _ => "flips"
  | .getb _ _ => "getb"
  | .setb _ _ _ => "setb"
  | .mov _ _ => "mov"
  | .not _ _ => "not"
  | .and _ _ _ => "and"
  | .or _ _ _ => "or"
  | .xor _ _ _ => "xor"
  | .shl1 _ _ => "shl1"
  | .shr1 _ _ => "shr1"
  | .shl _ _ _ => "shl"
  | .shr _ _ _ => "shr"
  | .inc _ _ => "inc"
  | .dec _ _ => "dec"
  | .neg _ _ => "neg"
  | .add _ _ _ => "add"
  | .sub _ _ _ => "sub"
  | .mul _ _ _ => "mul"
  | .div _ _ _ => "div"
  | .mod _ _ _ => "mod"
  | .eq _ _ => "eq"
  | .lt _ _ => "lt"
  | .le _ _ => "le"
  | .gt _ _ => "gt"
  | .ge _ _ => "ge"
  | .zero _ => "zero"
  | .one _ => "one"
  | .ldnU8 _ _ => "ldn.u8"
  | .ldnU16 _ _ => "ldn.u16"
  | .ldnU32 _ _ => "ldn.u32"
  | .ldnU64 _ _ => "ldn.u64"
  | .ldnS8 _ _ => "ldn.s8"
  | .ldnS16 _ _ => "ldn.s16"
  | .ldnS32 _ _ => "ldn.s32"
  | .ldnS64 _ _ => "ldn.s64"
  | .bool _ => "bool"

/-! ## Words as the opcode table numbers them -/

/-- CMD of a table word: its bits 31..0. -/
def tableCmd (nbits w : Nat) : Cmd := BitVec.ofNat 32 (w % 2 ^ nbits)

/-- DIN of a table word: bits 95..32, which count on from CMD's; 0 for the table's 32-bit rows
(log entry 14). -/
def tableDin (nbits w : Nat) : Din := BitVec.ofNat 64 (w % 2 ^ nbits / 2 ^ 32)

/-- What the decoder reads from a table word; none where it rejects the word. -/
def decodeTableWord (nbits w : Nat) : Option Instr :=
  match decode (tableCmd nbits w) (tableDin nbits w) with
  | .ok i => some i
  | .error _ => none

end Sys2Proof
end

