-- ==== Sys2Proof/Config.lean ====
section
/-! DEFINITION. What an implementation fixes: the two open results of the spec, DIVFN_N and MODFN_N,
as constants with no body, and the width that `State.reset` takes. -/

namespace Sys2Proof

/-- DIVFN_N, the result of DIV for a nonzero divisor: a total function of N and the two operands,
of which nothing more is known (R9, R159; log entry 8: a free value). -/
opaque Config.divFn : (N : Nat) → Value N → Value N → Value N

/-- MODFN_N, the result of MOD for a nonzero divisor (R9, R160; log entry 8: a free value). -/
opaque Config.modFn : (N : Nat) → Value N → Value N → Value N

/-- The N of `State.reset` alone. DESIGN CHOICE (log entry 2): the spec leaves N open (R6), and every
other definition takes N from the state, so that claims are about every N ≥ 1. -/
def Config.resetN : Nat := 8

end Sys2Proof
end

