-- ==== Sys2Proof/Machine/State.lean ====
section
/-! DEFINITION. The state of the block (10_state.md), the reasons a step can stop, and reset.

`Block N` is the spec's complete architectural state `S = (x[0..15], F, BR, ST)` (R43). `State` holds it
together with what the host interface's one-argument step needs beside it: the parameter N, the READY
port, and the host's inputs still to come (log entries 1, 3, 4). -/

namespace Sys2Proof.Machine

/-- ST, the status register (R37). Bits 7..4 are hardwired 0 and have no storage; `Status.byte` reads
them as 0 (log entry 12). -/
structure Status where
  /-- ST[2:0]: the completion code of the most recent command (R38). -/
  code : BitVec 3
  /-- ST[3]: some command since reset ended in an error (R39). -/
  sticky : Bool
deriving DecidableEq, Repr

/-- The complete architectural state of a block of width N (R43). -/
structure Block (N : Nat) where
  /-- The value registers x0 to x15 (R30). -/
  x : Vector (Value N) 16
  /-- F, the boolean result (R34). -/
  f : Bool
  /-- BR, the byte result (R36). -/
  br : Byte
  /-- ST (R37). -/
  st : Status
deriving DecidableEq, Repr

/-- What the host does at the input ports (R40), one event at a time. -/
inductive HostEvent where
  /-- ISSUE asserted with CMD and DIN, and the command left to complete (R41). -/
  | issue (cmd : Cmd) (din : Din)
  /-- ISSUE asserted with CMD and DIN, and RESET raised to 1 while the command is in progress (R251). -/
  | issueThenReset (cmd : Cmd) (din : Din)
  /-- RESET at this level, with no command in progress (R250). -/
  | reset (level : Bool)
deriving DecidableEq, Repr

structure State where
  /-- The parameter N, the width in bytes: no step changes it (R6, R44; log entry 1). -/
  N : Nat
  /-- The architectural state (R43). -/
  block : Block N
  /-- The READY port; between commands it is 0 only while RESET = 1 (R40, R250). -/
  ready : Bool
  /-- The host's inputs still to come, oldest first (R44, R263; log entry 3). -/
  port : List HostEvent
deriving DecidableEq, Repr

/-- The errors a command can end in; the codes are `Error.code` (R221). An error is no fault of the
model: the block goes on (R220). -/
inductive Error where
  | divisionByZero
  | illegalCommand
  | undefinedShift
  | byteIndexRange
  | widthTooSmall
deriving DecidableEq, Repr

/-- Why the machine stops. -/
inductive Fault where
  /-- Raised by `tick` in a state whose ST.CODE is 6 or 7. No rule produces these codes, and
  93_implementation_defined.md U9 has the model stuck there. Safe (log entry 7). -/
  | reservedCode
deriving DecidableEq, Repr

/-- Why a step is refused. -/
inductive Refusal where
  /-- Raised by an arm of `exec` whose command has no meaning yet. Safe. -/
  | notModelled (mnemonic : String)
  /-- Raised by `takeEvent` for an ISSUE while READY = 0, which the host must not do and whose effect is
  outside the spec (R256; 93_implementation_defined.md U6, treatment `refuse`). Safe (log entry 5). -/
  | issueWhileNotReady
  /-- Raised by `tick` in a state with N = 0: such a block does not exist (R6). Safe (log entry 6). -/
  | zeroWidth
deriving DecidableEq, Repr

/-- The outcomes of a step of this machine. -/
abbrev Result := Host.Outcome State Fault Refusal

/-- Every piece of state at its reset value (R46). -/
def Block.reset (N : Nat) : Block N where
  x := Vector.replicate 16 0
  f := false
  br := 0
  st := ⟨0, false⟩

/-- A block of width N right after reset or power-on: READY = 1, no input yet (R46, R250, R252). -/
def State.resetOf (N : Nat) : State where
  N := N
  block := Block.reset N
  ready := true
  port := []

/-- The machine right after reset, at the width of log entry 2. -/
def State.reset : State := State.resetOf Config.resetN

end Sys2Proof.Machine
end

