-- ==== Sys2Proof/Machine/Operands.lean ====
section
/-! DEFINITION. Values as bits, integers and cells (R13 to R18), the operands that come on DIN (R63, R64,
R87), and what each command reads and writes (R32). -/

namespace Sys2Proof.Machine

/-! ## Integers -/

/-- `uval(v)` (R15). -/
def uval {N : Nat} (v : Value N) : Nat := v.toNat

/-- `sval(v)`, the two's-complement integer (R15). -/
def sval {N : Nat} (v : Value N) : Int := v.toInt

/-- `enc(z)`, the pattern whose uval is `z mod 2^W` (R15). -/
def enc (N : Nat) (z : Int) : Value N := BitVec.ofInt (8 * N) z

/-- `a[W-1]`, the sign bit (R13). -/
def signBit {N : Nat} (a : Value N) : Bool := a.getLsbD (8 * N - 1)

/-! ## Constants (R16) -/

def zeroW (N : Nat) : Value N := 0
def oneW (N : Nat) : Value N := enc N 1
/-- Only bit W-1 is set. -/
def minW (N : Nat) : Value N := BitVec.intMin (8 * N)
/-- `NOT MIN_W`. -/
def maxW (N : Nat) : Value N := ~~~ minW N

/-! ## Cells -/

/-- `cell(v, i) = v[8i+7 : 8i]` (R14). -/
def cell {N : Nat} (v : Value N) (i : Nat) : Byte := v.extractLsb' (8 * i) 8

/-- The N cells of a value, the least significant first (R14, R62). -/
def cells {N : Nat} (v : Value N) : List Byte := (List.range N).map (cell v)

/-- The unsigned integer whose cells, the least significant first, these are. -/
def cellsVal : List Byte → Nat
  | [] => 0
  | c :: cs => c.toNat + 256 * cellsVal cs

/-- The value with these N cells, the least significant first. -/
def ofCells (N : Nat) (cs : List Byte) : Value N := BitVec.ofNat (8 * N) (cellsVal cs)

/-- `v.cell[i] <- b` (R14). -/
def setCell {N : Nat} (v : Value N) (i : Nat) (b : Byte) : Value N := ofCells N ((cells v).set i b)

/-- The most significant cell, `v.cell[N-1]`. -/
def topCell {N : Nat} (v : Value N) : Byte := cell v (N - 1)

/-! ## Operands on DIN -/

/-- The byte index of GETB and SETB: all of DIN, unsigned (R63, R87). -/
def byteIndex (din : Din) : Nat := din.toNat

/-- Byte j of the native value on DIN, `DIN[8j+7:8j]` (R64). -/
def nativeByte (din : Din) (j : Nat) : Byte := din.extractLsb' (8 * j) 8

/-- The native value of k bytes on DIN is negative: its type is signed and its top bit is 1 (R202). -/
def nativeNegative (k : Nat) (signed : Bool) (din : Din) : Bool := signed && din.getLsbD (8 * k - 1)

/-- The N cells that a native value of k ≤ N bytes is loaded as: its own bytes, then the fill (R202). -/
def nativeCells (N k : Nat) (signed : Bool) (din : Din) : List Byte :=
  (List.range k).map (nativeByte din) ++
    List.replicate (N - k) (if nativeNegative k signed din then 0xFF else 0x00)

end Sys2Proof.Machine

namespace Sys2Proof

/-! ## What each command reads and writes (R32, R34, R36, R87) -/

/-- The value register a command writes. -/
def Instr.dest : Instr → Option Reg
  | .msb _ | .msbns _ | .isneg _ | .getb _ _ | .bool _ => none
  | .eq _ _ | .lt _ _ | .le _ _ | .gt _ _ | .ge _ _ => none
  | .flips rd _ | .mov rd _ | .not rd _ | .shl1 rd _ | .shr1 rd _ => some rd
  | .inc rd _ | .dec rd _ | .neg rd _ => some rd
  | .and rd _ _ | .or rd _ _ | .xor rd _ _ | .shl rd _ _ | .shr rd _ _ => some rd
  | .add rd _ _ | .sub rd _ _ | .mul rd _ _ | .div rd _ _ | .mod rd _ _ => some rd
  | .setb rd _ _ => some rd
  | .zero rd | .one rd => some rd
  | .ldnU8 rd _ | .ldnU16 rd _ | .ldnU32 rd _ | .ldnU64 rd _ => some rd
  | .ldnS8 rd _ | .ldnS16 rd _ | .ldnS32 rd _ | .ldnS64 rd _ => some rd

/-- The value registers a command reads. -/
def Instr.sources : Instr → List Reg
  | .msb a | .msbns a | .isneg a | .getb a _ | .bool a => [a]
  | .eq a b | .lt a b | .le a b | .gt a b | .ge a b => [a, b]
  | .flips _ a | .mov _ a | .not _ a | .shl1 _ a | .shr1 _ a => [a]
  | .inc _ a | .dec _ a | .neg _ a => [a]
  | .and _ a b | .or _ a b | .xor _ a b | .shl _ a b | .shr _ a b => [a, b]
  | .add _ a b | .sub _ a b | .mul _ a b | .div _ a b | .mod _ a b => [a, b]
  | .setb rd _ _ => [rd]
  | .zero _ | .one _ => []
  | .ldnU8 _ _ | .ldnU16 _ _ | .ldnU32 _ _ | .ldnU64 _ _ => []
  | .ldnS8 _ _ | .ldnS16 _ _ | .ldnS32 _ _ | .ldnS64 _ _ => []

/-- F is written by EQ, LT, LE, GT, GE, ISNEG and BOOL only (R34). -/
def Instr.writesF : Instr → Bool
  | .eq _ _ | .lt _ _ | .le _ _ | .gt _ _ | .ge _ _ | .isneg _ | .bool _ => true
  | .msb _ | .msbns _ | .getb _ _ => false
  | .flips _ _ | .mov _ _ | .not _ _ | .shl1 _ _ | .shr1 _ _ => false
  | .inc _ _ | .dec _ _ | .neg _ _ => false
  | .and _ _ _ | .or _ _ _ | .xor _ _ _ | .shl _ _ _ | .shr _ _ _ => false
  | .add _ _ _ | .sub _ _ _ | .mul _ _ _ | .div _ _ _ | .mod _ _ _ => false
  | .setb _ _ _ | .zero _ | .one _ => false
  | .ldnU8 _ _ | .ldnU16 _ _ | .ldnU32 _ _ | .ldnU64 _ _ => false
  | .ldnS8 _ _ | .ldnS16 _ _ | .ldnS32 _ _ | .ldnS64 _ _ => false

/-- BR is written by MSB, MSBNS and GETB only (R36). -/
def Instr.writesBR : Instr → Bool
  | .msb _ | .msbns _ | .getb _ _ => true
  | .eq _ _ | .lt _ _ | .le _ _ | .gt _ _ | .ge _ _ | .isneg _ | .bool _ => false
  | .flips _ _ | .mov _ _ | .not _ _ | .shl1 _ _ | .shr1 _ _ => false
  | .inc _ _ | .dec _ _ | .neg _ _ => false
  | .and _ _ _ | .or _ _ _ | .xor _ _ _ | .shl _ _ _ | .shr _ _ _ => false
  | .add _ _ _ | .sub _ _ _ | .mul _ _ _ | .div _ _ _ | .mod _ _ _ => false
  | .setb _ _ _ | .zero _ | .one _ => false
  | .ldnU8 _ _ | .ldnU16 _ _ | .ldnU32 _ _ | .ldnU64 _ _ => false
  | .ldnS8 _ _ | .ldnS16 _ _ | .ldnS32 _ _ | .ldnS64 _ _ => false

/-- Only GETB, SETB and LDN read DIN (R81). -/
def Instr.readsDin : Instr → Bool
  | .getb _ _ | .setb _ _ _ => true
  | .ldnU8 _ _ | .ldnU16 _ _ | .ldnU32 _ _ | .ldnU64 _ _ => true
  | .ldnS8 _ _ | .ldnS16 _ _ | .ldnS32 _ _ | .ldnS64 _ _ => true
  | .msb _ | .msbns _ | .isneg _ | .bool _ => false
  | .eq _ _ | .lt _ _ | .le _ _ | .gt _ _ | .ge _ _ => false
  | .flips _ _ | .mov _ _ | .not _ _ | .shl1 _ _ | .shr1 _ _ => false
  | .inc _ _ | .dec _ _ | .neg _ _ => false
  | .and _ _ _ | .or _ _ _ | .xor _ _ _ | .shl _ _ _ | .shr _ _ _ => false
  | .add _ _ _ | .sub _ _ _ | .mul _ _ _ | .div _ _ _ | .mod _ _ _ => false
  | .zero _ | .one _ => false

end Sys2Proof
end

