-- ==== Sys2Proof/Machine/Ops.lean ====
section
/-! DEFINITION. The named operations on registers (R20), and how a command ends (R23): with code 0, or by
`raise`, the one way an error is taken (R220). No error transfers control and none is returned from
(R231). -/

namespace Sys2Proof.Machine

/-- `x[r]` (R20). -/
def Block.reg {N : Nat} (b : Block N) (r : Reg) : Value N := b.x[r]

/-- `x[r] <- v` (R20). None of the 16 registers is hardwired (R30). -/
def Block.setReg {N : Nat} (b : Block N) (r : Reg) (v : Value N) : Block N :=
  { b with x := b.x.set r v }

/-- `F <- v` (R20). -/
def Block.setF {N : Nat} (b : Block N) (v : Bool) : Block N := { b with f := v }

/-- `BR <- v` (R20). -/
def Block.setBr {N : Nat} (b : Block N) (v : Byte) : Block N := { b with br := v }

/-- The completion code of an error (R221). -/
def Error.code : Error → BitVec 3
  | .divisionByZero => 1
  | .illegalCommand => 2
  | .undefinedShift => 3
  | .byteIndexRange => 4
  | .widthTooSmall => 5

/-- The end of a command that raises nothing: `ST.CODE <- 0`, STICKY unchanged (R23, R94). -/
def Block.complete {N : Nat} (b : Block N) : Block N := { b with st := { b.st with code := 0 } }

/-- What `raise e` leaves: `ST.CODE <- code(e)`, `ST.STICKY <- 1`, and nothing else (R23, R220). -/
def Block.afterError {N : Nat} (b : Block N) (e : Error) : Block N :=
  { b with st := { code := e.code, sticky := true } }

/-- ST as the ST port shows it: bits 7..4 are 0, bit 3 is STICKY, bits 2..0 are CODE (R37). -/
def Status.byte (st : Status) : Byte := (0 : BitVec 4) ++ BitVec.ofBool st.sticky ++ st.code

/-- The command completes, leaving the block `b` with `ST.CODE = 0`. -/
def State.finish (s : State) (b : Block s.N) : Result := .next { s with block := b.complete }

/-- `raise e` (R23): the command ends, and only ST changes. -/
def State.raise (s : State) (e : Error) : Result := .next { s with block := s.block.afterError e }

end Sys2Proof.Machine
end

