-- ==== Sys2Proof/Machine/Bitwise.lean ====
section
/-! DEFINITION. The bitwise engine's commands (41_bitwise.md). -/

namespace Sys2Proof.Machine

/-! ## The engine's functions -/

/-- Every cell complemented (R130). -/
def notFn {N : Nat} (a : Value N) : Value N := ofCells N ((cells a).map (~~~ ·))

/-- Cell-wise and (R131). -/
def andFn {N : Nat} (a b : Value N) : Value N := ofCells N (List.zipWith (· &&& ·) (cells a) (cells b))

/-- Cell-wise or (R132). -/
def orFn {N : Nat} (a b : Value N) : Value N := ofCells N (List.zipWith (· ||| ·) (cells a) (cells b))

/-- Cell-wise exclusive or (R133). -/
def xorFn {N : Nat} (a b : Value N) : Value N := ofCells N (List.zipWith (· ^^^ ·) (cells a) (cells b))

/-- The loop of SHL1_fn, from the least significant cell up (R134): each cell takes the carry at bit 0 and
hands on its bit 7. -/
def shl1Cells : Bool → List Byte → List Byte
  | _, [] => []
  | carry, a :: as =>
    (BitVec.ofNat 8 (a.toNat * 2) ||| (BitVec.ofBool carry).setWidth 8) :: shl1Cells (a.getLsbD 7) as

/-- SHL1_fn (R134); the carry out of cell N-1 is discarded. -/
def shl1Fn {N : Nat} (a : Value N) : Value N := ofCells N (shl1Cells false (cells a))

/-- The loop of SHR1_fn, on the cells from the most significant down (R135): each cell takes the carry at
bit 7 and hands on its bit 0. -/
def shr1Cells : Bool → List Byte → List Byte
  | _, [] => []
  | carry, a :: as =>
    (BitVec.ofNat 8 (a.toNat / 2) ||| (if carry then 0x80 else 0x00)) :: shr1Cells (a.getLsbD 0) as

/-- SHR1_fn, a logical shift: nothing enters above cell N-1 (R135; 90_conflicts.md C2). -/
def shr1Fn {N : Nat} (a : Value N) : Value N :=
  ofCells N (shr1Cells false (cells a).reverse).reverse

/-- R137's repeated form of SHL: s single-bit steps. -/
def shlSteps {N : Nat} : Nat → Value N → Value N
  | 0, a => a
  | s + 1, a => shlSteps s (shl1Fn a)

/-- R138's repeated form of SHR: s single-bit steps. -/
def shrSteps {N : Nat} : Nat → Value N → Value N
  | 0, a => a
  | s + 1, a => shrSteps s (shr1Fn a)

/-- The result of s steps of SHL in R137's closed form, `enc(uval(a) * 2^s)`, which is ZERO_W for s ≥ W.
The number of steps inside is not observable (R10; log entry 9); `shlSteps` is the repeated form. -/
def shlFn {N : Nat} (a : Value N) (s : Nat) : Value N :=
  if 8 * N ≤ s then zeroW N else enc N (uval a * 2 ^ s)

/-- The result of s steps of SHR in R138's closed form, `enc(floor(uval(a) / 2^s))`, which is ZERO_W for
s ≥ W (log entry 9); `shrSteps` is the repeated form. -/
def shrFn {N : Nat} (a : Value N) (s : Nat) : Value N :=
  if 8 * N ≤ s then zeroW N else enc N (uval a / 2 ^ s : Nat)

/-! ## The commands -/

/-- NOT (R130). -/
def execNot (rd rs1 : Reg) (s : State) : Host.Outcome State Fault Refusal :=
  let a := s.block.reg rs1
  s.finish (s.block.setReg rd (notFn a))

/-- AND (R131). -/
def execAnd (rd rs1 rs2 : Reg) (s : State) : Host.Outcome State Fault Refusal :=
  let a := s.block.reg rs1
  let b := s.block.reg rs2
  s.finish (s.block.setReg rd (andFn a b))

/-- OR (R132). -/
def execOr (rd rs1 rs2 : Reg) (s : State) : Host.Outcome State Fault Refusal :=
  let a := s.block.reg rs1
  let b := s.block.reg rs2
  s.finish (s.block.setReg rd (orFn a b))

/-- XOR (R133). -/
def execXor (rd rs1 rs2 : Reg) (s : State) : Host.Outcome State Fault Refusal :=
  let a := s.block.reg rs1
  let b := s.block.reg rs2
  s.finish (s.block.setReg rd (xorFn a b))

/-- SHL1 (R134). -/
def execShl1 (rd rs1 : Reg) (s : State) : Host.Outcome State Fault Refusal :=
  let a := s.block.reg rs1
  s.finish (s.block.setReg rd (shl1Fn a))

/-- SHR1 (R135). -/
def execShr1 (rd rs1 : Reg) (s : State) : Host.Outcome State Fault Refusal :=
  let a := s.block.reg rs1
  s.finish (s.block.setReg rd (shr1Fn a))

/-- SHL (R136, R137): the amount is the signed value of x[rs2]; UNDEFINED_SHIFT if it is negative. -/
def execShl (rd rs1 rs2 : Reg) (s : State) : Host.Outcome State Fault Refusal :=
  let a := s.block.reg rs1
  let amount := sval (s.block.reg rs2)
  if amount < 0 then s.raise .undefinedShift
  else s.finish (s.block.setReg rd (shlFn a amount.toNat))

/-- SHR (R136, R138): the amount is the signed value of x[rs2]; UNDEFINED_SHIFT if it is negative. -/
def execShr (rd rs1 rs2 : Reg) (s : State) : Host.Outcome State Fault Refusal :=
  let a := s.block.reg rs1
  let amount := sval (s.block.reg rs2)
  if amount < 0 then s.raise .undefinedShift
  else s.finish (s.block.setReg rd (shrFn a amount.toNat))

end Sys2Proof.Machine
end

