-- ==== Sys2Proof/Machine/Arithmetic.lean ====
section
/-! DEFINITION. The arithmetic engine's commands (42_arithmetic.md). Every result wraps modulo 2^W, and no
carry or overflow is recorded (R150, R35). -/

namespace Sys2Proof.Machine

/-! ## The engine's functions -/

/-- The loop of ADD_fn, from the least significant cell up (R151): the cells' sum, then the carry; the
carry handed on is the OR of the two overflows. -/
def addCells : Bool → List Byte → List Byte → List Byte
  | carry, a :: as, b :: bs =>
    let s1 := BitVec.ofNat 8 (a.toNat + b.toNat)
    let o1 := decide (s1.toNat < a.toNat)
    let s2 := BitVec.ofNat 8 (s1.toNat + carry.toNat)
    let o2 := decide (s2.toNat < s1.toNat)
    s2 :: addCells (o1 || o2) as bs
  | _, _, _ => []

/-- ADD_fn (R151); the carry out of cell N-1 is discarded. -/
def addFn {N : Nat} (a b : Value N) : Value N := ofCells N (addCells false (cells a) (cells b))

/-- The loop of INC_fn (R152): the carry stops at the first cell that does not overflow. -/
def incCells : List Byte → List Byte
  | [] => []
  | a :: as => BitVec.ofNat 8 (a.toNat + 1) :: (if a ≠ 0xFF then as else incCells as)

/-- INC_fn (R152). -/
def incFn {N : Nat} (a : Value N) : Value N := ofCells N (incCells (cells a))

/-- The loop of DEC_fn (R152): the borrow stops at the first cell that needs none. -/
def decCells : List Byte → List Byte
  | [] => []
  | a :: as => BitVec.ofNat 8 (a.toNat + 255) :: (if a ≠ 0x00 then as else decCells as)

/-- DEC_fn (R152). -/
def decFn {N : Nat} (a : Value N) : Value N := ofCells N (decCells (cells a))

/-- NEG_fn (R152): complement, then increment. -/
def negFn {N : Nat} (a : Value N) : Value N := incFn (notFn a)

/-- SUB's result: the sum with the negated subtrahend (R157). -/
def subFn {N : Nat} (a b : Value N) : Value N := addFn a (negFn b)

/-- m additions of a to an accumulator (R158). -/
def addTimes {N : Nat} (a : Value N) : Nat → Value N → Value N
  | 0, acc => acc
  | m + 1, acc => addTimes a m (addFn acc a)

/-- R158's repeated form of MUL: |b| additions, |b| unbounded, then the sign of b. -/
def mulSteps {N : Nat} (a b : Value N) : Value N :=
  let acc := addTimes a (sval b).natAbs (zeroW N)
  if sval b < 0 then negFn acc else acc

/-- MUL's result in R158's closed form, `enc(sval(a) * sval(b))`, for every a and b (90_conflicts.md C3).
The number of additions inside is not observable (R10; log entry 9); `mulSteps` is the repeated form. -/
def mulFn {N : Nat} (a b : Value N) : Value N := enc N (sval a * sval b)

/-! ## The commands -/

/-- INC (R153). -/
def execInc (rd rs1 : Reg) (s : State) : Host.Outcome State Fault Refusal :=
  let a := s.block.reg rs1
  s.finish (s.block.setReg rd (incFn a))

/-- DEC (R154). -/
def execDec (rd rs1 : Reg) (s : State) : Host.Outcome State Fault Refusal :=
  let a := s.block.reg rs1
  s.finish (s.block.setReg rd (decFn a))

/-- NEG (R155). -/
def execNeg (rd rs1 : Reg) (s : State) : Host.Outcome State Fault Refusal :=
  let a := s.block.reg rs1
  s.finish (s.block.setReg rd (negFn a))

/-- ADD (R156). -/
def execAdd (rd rs1 rs2 : Reg) (s : State) : Host.Outcome State Fault Refusal :=
  let a := s.block.reg rs1
  let b := s.block.reg rs2
  s.finish (s.block.setReg rd (addFn a b))

/-- SUB (R157). -/
def execSub (rd rs1 rs2 : Reg) (s : State) : Host.Outcome State Fault Refusal :=
  let a := s.block.reg rs1
  let b := s.block.reg rs2
  s.finish (s.block.setReg rd (subFn a b))

/-- MUL (R158). -/
def execMul (rd rs1 rs2 : Reg) (s : State) : Host.Outcome State Fault Refusal :=
  let a := s.block.reg rs1
  let b := s.block.reg rs2
  s.finish (s.block.setReg rd (mulFn a b))

/-- DIV (R159): DIVISION_BY_ZERO, or the parameter DIVFN_N's value. -/
def execDiv (rd rs1 rs2 : Reg) (s : State) : Host.Outcome State Fault Refusal :=
  let a := s.block.reg rs1
  let b := s.block.reg rs2
  if b = zeroW s.N then s.raise .divisionByZero
  else s.finish (s.block.setReg rd (Config.divFn s.N a b))

/-- MOD (R160): DIVISION_BY_ZERO, or the parameter MODFN_N's value. -/
def execMod (rd rs1 rs2 : Reg) (s : State) : Host.Outcome State Fault Refusal :=
  let a := s.block.reg rs1
  let b := s.block.reg rs2
  if b = zeroW s.N then s.raise .divisionByZero
  else s.finish (s.block.setReg rd (Config.modFn s.N a b))

end Sys2Proof.Machine
end

