-- ==== Sys2Proof/Machine/Flags.lean ====
section
/-! DEFINITION. The boolean results that go to F (R112, R180, R181, R203). The block has no other flag
(R35). -/

namespace Sys2Proof.Machine

/-- ISNEG's result, `a[W-1]` (R112). -/
def isNegFn {N : Nat} (a : Value N) : Bool := signBit a

/-- EQ's result: every cell matches (R181). -/
def eqFn {N : Nat} (a b : Value N) : Bool := cells a == cells b

/-- Step 3 of LT_fn, on the remaining cells, the most significant first: the first cell that differs
decides, and step 4, the tie, is false (R180). -/
def ltCells : List Byte → List Byte → Bool
  | a :: as, b :: bs => if a ≠ b then decide (a.toNat < b.toNat) else ltCells as bs
  | _, _ => false

/-- LT_fn, in the four steps of R180. -/
def ltFn {N : Nat} (a b : Value N) : Bool :=
  if signBit a ≠ signBit b then signBit a
  else
    let ta := (topCell a &&& 0x7F).toNat
    let tb := (topCell b &&& 0x7F).toNat
    if ta ≠ tb then decide (ta < tb)
    else ltCells ((cells a).take (N - 1)).reverse ((cells b).take (N - 1)).reverse

/-- LE's result: `LT_fn(a, b) OR (a = b)` (R183). -/
def leFn {N : Nat} (a b : Value N) : Bool := ltFn a b || eqFn a b

/-- GT's result: `LT_fn(b, a)` (R184). -/
def gtFn {N : Nat} (a b : Value N) : Bool := ltFn b a

/-- GE's result: `NOT LT_fn(a, b)` (R185). -/
def geFn {N : Nat} (a b : Value N) : Bool := !ltFn a b

/-- BOOL's result: some cell is nonzero (R203). -/
def boolFn {N : Nat} (a : Value N) : Bool := (cells a).any (· ≠ 0)

end Sys2Proof.Machine
end

