-- ==== Sys2Proof/Machine/Comparison.lean ====
section
/-! DEFINITION. The comparison engine's commands (43_comparison.md): each writes F alone. -/

namespace Sys2Proof.Machine

/-- EQ (R181). -/
def execEq (rs1 rs2 : Reg) (s : State) : Host.Outcome State Fault Refusal :=
  let a := s.block.reg rs1
  let b := s.block.reg rs2
  s.finish (s.block.setF (eqFn a b))

/-- LT (R182). -/
def execLt (rs1 rs2 : Reg) (s : State) : Host.Outcome State Fault Refusal :=
  let a := s.block.reg rs1
  let b := s.block.reg rs2
  s.finish (s.block.setF (ltFn a b))

/-- LE (R183). -/
def execLe (rs1 rs2 : Reg) (s : State) : Host.Outcome State Fault Refusal :=
  let a := s.block.reg rs1
  let b := s.block.reg rs2
  s.finish (s.block.setF (leFn a b))

/-- GT (R184). -/
def execGt (rs1 rs2 : Reg) (s : State) : Host.Outcome State Fault Refusal :=
  let a := s.block.reg rs1
  let b := s.block.reg rs2
  s.finish (s.block.setF (gtFn a b))

/-- GE (R185). -/
def execGe (rs1 rs2 : Reg) (s : State) : Host.Outcome State Fault Refusal :=
  let a := s.block.reg rs1
  let b := s.block.reg rs2
  s.finish (s.block.setF (geFn a b))

end Sys2Proof.Machine
end

