-- ==== Sys2Proof/Machine/Construction.lean ====
section
/-! DEFINITION. The construction and conversion commands (44_construction.md). -/

namespace Sys2Proof.Machine

/-- LDN of a native type of k bytes (R202): WIDTH_TOO_SMALL if k > N, else the native value's bytes in
the low-order cells and the fill above them. Bits of DIN above the native value are ignored (R87). -/
def loadNative (k : Nat) (signed : Bool) (rd : Reg) (din : Din) (s : State) :
    Host.Outcome State Fault Refusal :=
  if s.N < k then s.raise .widthTooSmall
  else s.finish (s.block.setReg rd (ofCells s.N (nativeCells s.N k signed din)))

/-- ZERO (R200). -/
def execZero (rd : Reg) (s : State) : Host.Outcome State Fault Refusal :=
  s.finish (s.block.setReg rd (zeroW s.N))

/-- ONE (R201). -/
def execOne (rd : Reg) (s : State) : Host.Outcome State Fault Refusal :=
  s.finish (s.block.setReg rd (oneW s.N))

/-- LDN.U8 (R202). -/
def execLdnU8 (rd : Reg) (din : Din) (s : State) : Host.Outcome State Fault Refusal :=
  loadNative 1 false rd din s

/-- LDN.U16 (R202). -/
def execLdnU16 (rd : Reg) (din : Din) (s : State) : Host.Outcome State Fault Refusal :=
  loadNative 2 false rd din s

/-- LDN.U32 (R202). -/
def execLdnU32 (rd : Reg) (din : Din) (s : State) : Host.Outcome State Fault Refusal :=
  loadNative 4 false rd din s

/-- LDN.U64 (R202). -/
def execLdnU64 (rd : Reg) (din : Din) (s : State) : Host.Outcome State Fault Refusal :=
  loadNative 8 false rd din s

/-- LDN.S8 (R202). -/
def execLdnS8 (rd : Reg) (din : Din) (s : State) : Host.Outcome State Fault Refusal :=
  loadNative 1 true rd din s

/-- LDN.S16 (R202). -/
def execLdnS16 (rd : Reg) (din : Din) (s : State) : Host.Outcome State Fault Refusal :=
  loadNative 2 true rd din s

/-- LDN.S32 (R202). -/
def execLdnS32 (rd : Reg) (din : Din) (s : State) : Host.Outcome State Fault Refusal :=
  loadNative 4 true rd din s

/-- LDN.S64 (R202). -/
def execLdnS64 (rd : Reg) (din : Din) (s : State) : Host.Outcome State Fault Refusal :=
  loadNative 8 true rd din s

/-- BOOL (R203). -/
def execBool (rs1 : Reg) (s : State) : Host.Outcome State Fault Refusal :=
  let a := s.block.reg rs1
  s.finish (s.block.setF (boolFn a))

end Sys2Proof.Machine
end

