-- ==== Sys2Proof/Machine/Storage.lean ====
section
/-! DEFINITION. The byte-storage core's commands (40_storage.md). -/

namespace Sys2Proof.Machine

/-- FLIPS's result: bit 7 of the most significant cell flipped (R113). -/
def flipSignFn {N : Nat} (a : Value N) : Value N := setCell a (N - 1) (topCell a ^^^ 0x80)

/-- MSB (R110): `BR <- a.cell[N-1]`. -/
def execMsb (rs1 : Reg) (s : State) : Host.Outcome State Fault Refusal :=
  let a := s.block.reg rs1
  s.finish (s.block.setBr (topCell a))

/-- MSBNS (R111): `BR <- a.cell[N-1] AND 0x7F`. -/
def execMsbns (rs1 : Reg) (s : State) : Host.Outcome State Fault Refusal :=
  let a := s.block.reg rs1
  s.finish (s.block.setBr (topCell a &&& 0x7F))

/-- ISNEG (R112): `F <- a[W-1]`. -/
def execIsneg (rs1 : Reg) (s : State) : Host.Outcome State Fault Refusal :=
  let a := s.block.reg rs1
  s.finish (s.block.setF (isNegFn a))

/-- FLIPS (R113). -/
def execFlips (rd rs1 : Reg) (s : State) : Host.Outcome State Fault Refusal :=
  let a := s.block.reg rs1
  s.finish (s.block.setReg rd (flipSignFn a))

/-- MOV (R114). -/
def execMov (rd rs1 : Reg) (s : State) : Host.Outcome State Fault Refusal :=
  let a := s.block.reg rs1
  s.finish (s.block.setReg rd a)

/-- GETB (R115): `BR <- a.cell[idx]`, or BYTE_INDEX_RANGE for an index that names no cell. -/
def execGetb (rs1 : Reg) (din : Din) (s : State) : Host.Outcome State Fault Refusal :=
  let a := s.block.reg rs1
  let idx := byteIndex din
  if s.N ≤ idx then s.raise .byteIndexRange else s.finish (s.block.setBr (cell a idx))

/-- SETB (R116): `r.cell[idx] <- imm8`, or BYTE_INDEX_RANGE for an index that names no cell. -/
def execSetb (rd : Reg) (din : Din) (imm8 : Byte) (s : State) : Host.Outcome State Fault Refusal :=
  let r := s.block.reg rd
  let idx := byteIndex din
  if s.N ≤ idx then s.raise .byteIndexRange else s.finish (s.block.setReg rd (setCell r idx imm8))

end Sys2Proof.Machine
end

