-- ==== Sys2Proof/Machine/Dispatch.lean ====
section
/-! DEFINITION. The dispatch: one direct call of a meaning for each command. -/

namespace Sys2Proof.Machine

def exec (i : Instr) (s : State) : Host.Outcome State Fault Refusal :=
  match i with
  | .msb rs1 => Sys2Proof.Machine.execMsb rs1 s
  | .msbns rs1 => Sys2Proof.Machine.execMsbns rs1 s
  | .isneg rs1 => Sys2Proof.Machine.execIsneg rs1 s
  | .flips rd rs1 => Sys2Proof.Machine.execFlips rd rs1 s
  | .getb rs1 idx => Sys2Proof.Machine.execGetb rs1 idx s
  | .setb rd idx imm8 => Sys2Proof.Machine.execSetb rd idx imm8 s
  | .mov rd rs1 => Sys2Proof.Machine.execMov rd rs1 s
  | .not rd rs1 => Sys2Proof.Machine.execNot rd rs1 s
  | .and rd rs1 rs2 => Sys2Proof.Machine.execAnd rd rs1 rs2 s
  | .or rd rs1 rs2 => Sys2Proof.Machine.execOr rd rs1 rs2 s
  | .xor rd rs1 rs2 => Sys2Proof.Machine.execXor rd rs1 rs2 s
  | .shl1 rd rs1 => Sys2Proof.Machine.execShl1 rd rs1 s
  | .shr1 rd rs1 => Sys2Proof.Machine.execShr1 rd rs1 s
  | .shl rd rs1 rs2 => Sys2Proof.Machine.execShl rd rs1 rs2 s
  | .shr rd rs1 rs2 => Sys2Proof.Machine.execShr rd rs1 rs2 s
  | .inc rd rs1 => Sys2Proof.Machine.execInc rd rs1 s
  | .dec rd rs1 => Sys2Proof.Machine.execDec rd rs1 s
  | .neg rd rs1 => Sys2Proof.Machine.execNeg rd rs1 s
  | .add rd rs1 rs2 => Sys2Proof.Machine.execAdd rd rs1 rs2 s
  | .sub rd rs1 rs2 => Sys2Proof.Machine.execSub rd rs1 rs2 s
  | .mul rd rs1 rs2 => Sys2Proof.Machine.execMul rd rs1 rs2 s
  | .div rd rs1 rs2 => Sys2Proof.Machine.execDiv rd rs1 rs2 s
  | .mod rd rs1 rs2 => Sys2Proof.Machine.execMod rd rs1 rs2 s
  | .eq rs1 rs2 => Sys2Proof.Machine.execEq rs1 rs2 s
  | .lt rs1 rs2 => Sys2Proof.Machine.execLt rs1 rs2 s
  | .le rs1 rs2 => Sys2Proof.Machine.execLe rs1 rs2 s
  | .gt rs1 rs2 => Sys2Proof.Machine.execGt rs1 rs2 s
  | .ge rs1 rs2 => Sys2Proof.Machine.execGe rs1 rs2 s
  | .zero rd => Sys2Proof.Machine.execZero rd s
  | .one rd => Sys2Proof.Machine.execOne rd s
  | .ldnU8 rd value => Sys2Proof.Machine.execLdnU8 rd value s
  | .ldnU16 rd value => Sys2Proof.Machine.execLdnU16 rd value s
  | .ldnU32 rd value => Sys2Proof.Machine.execLdnU32 rd value s
  | .ldnU64 rd value => Sys2Proof.Machine.execLdnU64 rd value s
  | .ldnS8 rd value => Sys2Proof.Machine.execLdnS8 rd value s
  | .ldnS16 rd value => Sys2Proof.Machine.execLdnS16 rd value s
  | .ldnS32 rd value => Sys2Proof.Machine.execLdnS32 rd value s
  | .ldnS64 rd value => Sys2Proof.Machine.execLdnS64 rd value s
  | .bool rs1 => Sys2Proof.Machine.execBool rs1 s

end Sys2Proof.Machine
end

