-- ==== Sys2Proof/Machine/Port.lean ====
section
/-! DEFINITION. The host's side of a step: a command issued at the port, RESET, and the outputs (R40 to
R42, R94, R250, R251). -/

namespace Sys2Proof.Machine

/-- `Step_N(S, CMD, DIN)` (R45, R94): decode, then the command's rule; a word that is no command raises
ILLEGAL_COMMAND (R89, R90, R222). -/
def runCommand (cmd : Cmd) (din : Din) (s : State) : Host.Outcome State Fault Refusal :=
  match decode cmd din with
  | .ok i => exec i s
  | .error _ => s.raise .illegalCommand

/-- RESET rises: READY = 0 and no command is accepted (R250). What the registers hold until RESET falls
cannot be seen, and the model leaves it as it was (log entry 4). -/
def State.resetRises (s : State) : State := { s with ready := false }

/-- RESET falls: every piece of state holds its reset value, and READY becomes 1 (R250). Where RESET is 0
already, nothing changes. -/
def State.resetFalls (s : State) : State :=
  if s.ready then s else { s with block := Block.reset s.N, ready := true }

/-- One host event. A command is issued only when READY = 1 (R41, R256). A command that RESET interrupts is
abandoned: none of its writes survive (R251). -/
def takeEvent (e : HostEvent) (s : State) : Host.Outcome State Fault Refusal :=
  match e with
  | .issue cmd din => if s.ready then runCommand cmd din s else .refused .issueWhileNotReady
  | .issueThenReset _ _ => if s.ready then .next s.resetRises else .refused .issueWhileNotReady
  | .reset true => .next s.resetRises
  | .reset false => .next s.resetFalls

/-- One step: the host's next event. With none to come the block waits and holds its state (R238, R258;
log entry 10). A block of width 0 does not exist (R6), and none reaches the codes 6 and 7 (R221, U9). -/
def tick (s : State) : Host.Outcome State Fault Refusal :=
  if s.N = 0 then .refused .zeroWidth
  else if 5 < s.block.st.code.toNat then .fault .reservedCode
  else
    match s.port with
    | [] => .next s
    | e :: rest => takeEvent e { s with port := rest }

/-- The output ports F, BR and ST (R40). -/
structure Outputs where
  f : Bool
  br : Byte
  st : Byte
deriving DecidableEq, Repr

/-- What the host reads while READY = 1; while READY = 0 the outputs have no specified value (R42; log
entry 11). Reading changes nothing. -/
def State.outputs (s : State) : Option Outputs :=
  if s.ready then some ⟨s.block.f, s.block.br, s.block.st.byte⟩ else none

/-- The state with a command at the head of the host's inputs, and READY = 1 so that it is taken. -/
def State.withCommand (s : State) (cmd : Cmd) (din : Din) : State :=
  { s with ready := true, port := .issue cmd din :: s.port }

end Sys2Proof.Machine
end

