-- ==== Sys2Proof/Machine/Step.lean ====
section
/-! DEFINITION. The step function, and how a word of the opcode table is put before it. -/

namespace Sys2Proof.Machine

/-- One step of the block. -/
def step (s : State) : Host.Outcome State Fault Refusal := tick s

/-- The state whose next step runs the command of a table word (log entries 3 and 14). -/
def State.withFetchWord (s : State) (nbits w : Nat) : State :=
  s.withCommand (tableCmd nbits w) (tableDin nbits w)

end Sys2Proof.Machine
end

