-- ==== Sys2Proof/Machine/Asm.lean ====
section
/-! DEFINITION. The assembler's syntax, the disassembler, and the pseudo-instructions (R95 to R103).

Nothing here changes the machine: a line stands for commands, and their words are `encode`'s. -/

namespace Sys2Proof.Machine

/-- An operand as written: a value register, or an integer (R95). -/
inductive Operand where
  | reg (r : Reg)
  | int (z : Int)
deriving DecidableEq, Repr

/-- How a mnemonic's operands make a command; none where the assembler rejects them. -/
abbrev Asm := List Operand → Option Instr

/-! ## Operands by form (R96) -/

/-- `op rs1` or `op rd`. -/
def asmR (mk : Reg → Instr) : Asm
  | [.reg a] => some (mk a)
  | _ => none

/-- `op rd, rs1` or `op rs1, rs2`. -/
def asmRR (mk : Reg → Reg → Instr) : Asm
  | [.reg a, .reg b] => some (mk a b)
  | _ => none

/-- `op rd, rs1, rs2`. -/
def asmRRR (mk : Reg → Reg → Reg → Instr) : Asm
  | [.reg a, .reg b, .reg c] => some (mk a b c)
  | _ => none

/-- A byte index lies in `[0, 2^64 - 1]`. -/
def idxOperand (z : Int) : Option Din :=
  if 0 ≤ z ∧ z < 2 ^ 64 then some (BitVec.ofInt 64 z) else none

/-- imm8 lies in `[0, 255]`. -/
def imm8Operand (z : Int) : Option Byte :=
  if 0 ≤ z ∧ z < 256 then some (BitVec.ofInt 8 z) else none

/-- A native value lies in its type's range; DIN is its 64-bit two's complement. -/
def nativeOperand (bits : Nat) (signed : Bool) (z : Int) : Option Din :=
  if signed then
    if -(2 ^ (bits - 1)) ≤ z ∧ z < 2 ^ (bits - 1) then some (BitVec.ofInt 64 z) else none
  else if 0 ≤ z ∧ z < 2 ^ bits then some (BitVec.ofInt 64 z) else none

/-- `getb rs1, idx`. -/
def asmGetb : Asm
  | [.reg a, .int z] => (idxOperand z).map (.getb a ·)
  | _ => none

/-- `setb rd, idx, imm8`. -/
def asmSetb : Asm
  | [.reg a, .int z, .int y] => (idxOperand z).bind fun idx => (imm8Operand y).map (.setb a idx ·)
  | _ => none

/-- `ldn.<s|u><8|16|32|64> rd, value`. -/
def asmLdn (bits : Nat) (signed : Bool) (mk : Reg → Din → Instr) : Asm
  | [.reg a, .int z] => (nativeOperand bits signed z).map (mk a ·)
  | _ => none

/-- Byte-storage core. -/
def storageAsm : List (String × Asm) :=
  [ ("msb", asmR .msb),
    ("msbns", asmR .msbns),
    ("isneg", asmR .isneg),
    ("flips", asmRR .flips),
    ("getb", asmGetb),
    ("setb", asmSetb),
    ("mov", asmRR .mov) ]

/-- Bitwise engine. -/
def bitwiseAsm : List (String × Asm) :=
  [ ("not", asmRR .not),
    ("and", asmRRR .and),
    ("or", asmRRR .or),
    ("xor", asmRRR .xor),
    ("shl1", asmRR .shl1),
    ("shr1", asmRR .shr1),
    ("shl", asmRRR .shl),
    ("shr", asmRRR .shr) ]

/-- Arithmetic engine. -/
def arithmeticAsm : List (String × Asm) :=
  [ ("inc", asmRR .inc),
    ("dec", asmRR .dec),
    ("neg", asmRR .neg),
    ("add", asmRRR .add),
    ("sub", asmRRR .sub),
    ("mul", asmRRR .mul),
    ("div", asmRRR .div),
    ("mod", asmRRR .mod) ]

/-- Comparison engine. -/
def comparisonAsm : List (String × Asm) :=
  [ ("eq", asmRR .eq),
    ("lt", asmRR .lt),
    ("le", asmRR .le),
    ("gt", asmRR .gt),
    ("ge", asmRR .ge) ]

/-- Construction and conversion. -/
def constructionAsm : List (String × Asm) :=
  [ ("zero", asmR .zero),
    ("one", asmR .one),
    ("ldn.u8", asmLdn 8 false .ldnU8),
    ("ldn.u16", asmLdn 16 false .ldnU16),
    ("ldn.u32", asmLdn 32 false .ldnU32),
    ("ldn.u64", asmLdn 64 false .ldnU64),
    ("ldn.s8", asmLdn 8 true .ldnS8),
    ("ldn.s16", asmLdn 16 true .ldnS16),
    ("ldn.s32", asmLdn 32 true .ldnS32),
    ("ldn.s64", asmLdn 64 true .ldnS64),
    ("bool", asmR .bool) ]

/-- The mnemonics and the forms of their operands (R96). -/
def asmTable : List (String × Asm) :=
  storageAsm ++ bitwiseAsm ++ arithmeticAsm ++ comparisonAsm ++ constructionAsm

/-- The command of a mnemonic and its operands. -/
def assembleCommand (mnemonic : String) (ops : List Operand) : Option Instr :=
  (asmTable.lookup mnemonic).bind (· ops)

/-! ## Pseudo-instructions (R98 to R102); there are no others (R103) -/

/-- v is in the range of a signed native type of k bytes. -/
def fitsSigned (k : Nat) (v : Int) : Bool :=
  decide (-(2 ^ (8 * k - 1)) ≤ v) && decide (v < 2 ^ (8 * k - 1))

/-- `ldn.s(8k) rd` with this DIN. -/
def ldnSigned (k : Nat) (rd : Reg) (din : Din) : Option Instr :=
  match k with
  | 1 => some (.ldnS8 rd din)
  | 2 => some (.ldnS16 rd din)
  | 4 => some (.ldnS32 rd din)
  | 8 => some (.ldnS64 rd din)
  | _ => none

/-- `li rd, v`: LDN at the smallest signed native width that fits v and N (R99). -/
def li (N : Nat) (rd : Reg) (v : Int) : Option (List Instr) :=
  (([1, 2, 4, 8].find? fun k => decide (k ≤ N) && fitsSigned k v).bind
    fun k => ldnSigned k rd (BitVec.ofInt 64 v)).map ([·])

/-- `min rd` (R101). -/
def minPseudo (rd : Reg) : List Instr := [.zero rd, .flips rd rd]

/-- `max rd` (R102). -/
def maxPseudo (rd : Reg) : List Instr := [.zero rd, .flips rd rd, .not rd rd]

/-- The one-operand in-place shorthands (R100). -/
def shorthandTable : List (String × (Reg → Instr)) :=
  [ ("inc", fun rd => .inc rd rd), ("dec", fun rd => .dec rd rd), ("neg", fun rd => .neg rd rd),
    ("not", fun rd => .not rd rd), ("shl1", fun rd => .shl1 rd rd), ("shr1", fun rd => .shr1 rd rd),
    ("flips", fun rd => .flips rd rd) ]

/-- The expansion of a pseudo-instruction. -/
def pseudo (N : Nat) (mnemonic : String) (ops : List Operand) : Option (List Instr) :=
  match ops with
  | [.reg rd, .int v] => if mnemonic = "li" then li N rd v else none
  | [.reg rd] =>
    if mnemonic = "min" then some (minPseudo rd)
    else if mnemonic = "max" then some (maxPseudo rd)
    else (shorthandTable.lookup mnemonic).map fun mk => [mk rd]
  | _ => none

/-- The commands of a mnemonic and its operands, for a block of width N; none where the assembler
rejects them. -/
def assemble (N : Nat) (mnemonic : String) (ops : List Operand) : Option (List Instr) :=
  match pseudo N mnemonic ops with
  | some is => some is
  | none => (assembleCommand mnemonic ops).map ([·])

/-- The commands run in order (R98). -/
def runInstrs : List Instr → State → Host.Outcome State Fault Refusal
  | [], s => .next s
  | i :: is, s =>
    match exec i s with
    | .next t => runInstrs is t
    | .fault r => .fault r
    | .refused r => .refused r

/-! ## Lines of text (R95) -/

def isBlank (c : Char) : Bool := c == ' ' || c == '\t'

def trimBlanks (cs : List Char) : List Char :=
  ((cs.dropWhile isBlank).reverse.dropWhile isBlank).reverse

/-- The pieces between commas. -/
def splitCommas : List Char → List (List Char)
  | [] => [[]]
  | c :: cs =>
    if c == ',' then [] :: splitCommas cs
    else
      match splitCommas cs with
      | p :: ps => (c :: p) :: ps
      | [] => [[c]]

/-- The digit's value in the base. -/
def digitVal (base : Nat) (c : Char) : Option Nat :=
  let v :=
    if '0' ≤ c ∧ c ≤ '9' then c.toNat - '0'.toNat
    else if 'a' ≤ c ∧ c ≤ 'f' then c.toNat - 'a'.toNat + 10
    else if 'A' ≤ c ∧ c ≤ 'F' then c.toNat - 'A'.toNat + 10
    else base
  if v < base then some v else none

/-- The number that these digits continue. -/
def digitsVal (base : Nat) : Nat → List Char → Option Nat
  | acc, [] => some acc
  | acc, c :: cs => (digitVal base c).bind fun d => digitsVal base (acc * base + d) cs

/-- Decimal, or hexadecimal with a `0x` prefix (R95). -/
def parseNat : List Char → Option Nat
  | [] => none
  | '0' :: 'x' :: c :: cs => digitsVal 16 0 (c :: cs)
  | cs => digitsVal 10 0 cs

/-- An integer with an optional leading `-` (R95). -/
def parseInt : List Char → Option Int
  | '-' :: cs => (parseNat cs).map fun n => -(n : Int)
  | cs => (parseNat cs).map fun n => (n : Int)

/-- A register's name, `x0` to `x15` (R95). -/
def regName (r : Reg) : List Char := 'x' :: Nat.toDigits 10 r.val

def parseReg (cs : List Char) : Option Reg := (List.finRange 16).find? fun r => regName r == cs

def parseOperand (cs : List Char) : Option Operand :=
  match parseReg cs with
  | some r => some (.reg r)
  | none => (parseInt cs).map .int

/-- All the operands, or none where one cannot be read. -/
def parseOperands : List (List Char) → Option (List Operand)
  | [] => some []
  | p :: ps =>
    (parseOperand (trimBlanks p)).bind fun o => (parseOperands ps).map fun os => o :: os

/-- One line: a comment from `;` to its end, then a mnemonic and its operands separated by commas; an
empty line is no command (R95; log entry 16). -/
def assembleLine (N : Nat) (line : List Char) : Option (List Instr) :=
  let code := trimBlanks (line.takeWhile (· != ';'))
  if code.isEmpty then some []
  else
    let mnemonic := String.ofList (code.takeWhile (!isBlank ·))
    let rest := trimBlanks (code.dropWhile (!isBlank ·))
    (if rest.isEmpty then some [] else parseOperands (splitCommas rest)).bind (assemble N mnemonic)

/-! ## Disassembly (R97) -/

/-- The operands of a command, in the order of its syntax; LDN's value is that of its native type. -/
def operands : Instr → List Operand
  | .msb a | .msbns a | .isneg a | .bool a | .zero a | .one a => [.reg a]
  | .getb a idx => [.reg a, .int idx.toNat]
  | .setb a idx imm8 => [.reg a, .int idx.toNat, .int imm8.toNat]
  | .flips a b | .mov a b | .not a b | .shl1 a b | .shr1 a b => [.reg a, .reg b]
  | .inc a b | .dec a b | .neg a b => [.reg a, .reg b]
  | .eq a b | .lt a b | .le a b | .gt a b | .ge a b => [.reg a, .reg b]
  | .and a b c | .or a b c | .xor a b c | .shl a b c | .shr a b c => [.reg a, .reg b, .reg c]
  | .add a b c | .sub a b c | .mul a b c | .div a b c | .mod a b c => [.reg a, .reg b, .reg c]
  | .ldnU8 a v => [.reg a, .int (v.setWidth 8).toNat]
  | .ldnU16 a v => [.reg a, .int (v.setWidth 16).toNat]
  | .ldnU32 a v => [.reg a, .int (v.setWidth 32).toNat]
  | .ldnU64 a v => [.reg a, .int (v.setWidth 64).toNat]
  | .ldnS8 a v => [.reg a, .int (v.setWidth 8).toInt]
  | .ldnS16 a v => [.reg a, .int (v.setWidth 16).toInt]
  | .ldnS32 a v => [.reg a, .int (v.setWidth 32).toInt]
  | .ldnS64 a v => [.reg a, .int (v.setWidth 64).toInt]

/-- An integer in decimal. -/
def intText : Int → List Char
  | .ofNat n => Nat.toDigits 10 n
  | .negSucc n => '-' :: Nat.toDigits 10 (n + 1)

def operandText : Operand → List Char
  | .reg r => regName r
  | .int z => intText z

/-- The operands separated by commas. -/
def operandsText : List Operand → List Char
  | [] => []
  | [o] => operandText o
  | o :: os => operandText o ++ ',' :: ' ' :: operandsText os

/-- A hexadecimal digit, upper case. -/
def hexDigit (d : Nat) : Char := if d < 10 then Char.ofNat (48 + d) else Char.ofNat (55 + d)

/-- A word as eight hexadecimal digits, the most significant first. -/
def wordText (cmd : Cmd) : List Char :=
  [7, 6, 5, 4, 3, 2, 1, 0].map fun i => hexDigit (cmd.toNat / 16 ^ i % 16)

/-- A command as text; an illegal word is shown as `.word 0xHHHHHHHH` and never as a command (R97). -/
def disassemble (cmd : Cmd) (din : Din) : List Char :=
  match decode cmd din with
  | .ok i => i.mnemonic.toList ++ ' ' :: operandsText (operands i)
  | .error _ => '.' :: 'w' :: 'o' :: 'r' :: 'd' :: ' ' :: '0' :: 'x' :: wordText cmd

end Sys2Proof.Machine
end

