-- ==== Sys2Proof/Safety.lean ====
section
/-! DEFINITION. What a legal state and a run are, in the terms that claims use. -/

namespace Sys2Proof.Machine

/-- A state that the spec gives the block: N ≥ 1 (R6), a completion code of R221's 0 to 5 (R37), and no
code of an error without STICKY (R39). -/
def State.Legal (s : State) : Prop :=
  0 < s.N ∧ s.block.st.code.toNat ≤ 5 ∧ (s.block.st.code ≠ 0 → s.block.st.sticky = true)

/-- The step stopped nowhere: it answered a next state. -/
def Continues (o : Host.Outcome State Fault Refusal) : Prop := ∃ t, o = .next t

/-- The commands as the host's inputs, in the order of issue (R263). -/
def issues (cmds : List (Cmd × Din)) : List HostEvent := cmds.map fun c => .issue c.1 c.2

/-- A run and its observation (R263): the state after the last command, and the outputs read after each.
None where a step does not answer a next state or READY is 0 after it. -/
def observe : List (Cmd × Din) → State → Option (State × List Outputs)
  | [], s => some (s, [])
  | c :: cs, s =>
    match step { s with port := [.issue c.1 c.2] } with
    | .next t =>
      match t.outputs with
      | some o => (observe cs t).map fun r => (r.1, o :: r.2)
      | none => none
    | _ => none

/-- The completion code that an observer reads in the ST output (R37). -/
def Outputs.code (o : Outputs) : BitVec 3 := o.st.extractLsb' 0 3

/-- The sticky bit that an observer reads in the ST output (R37). -/
def Outputs.sticky (o : Outputs) : Bool := o.st.getLsbD 3

end Sys2Proof.Machine
end

