-- ==== Sys2Proof/WellFormed.lean ====
section
/-! DEFINITION. The commands the assembler can write: R96's ranges for the operands that go on DIN.

Register numbers, byte indices and imm8 are in range by their types. A value of LDN must fit its native
type, so its DIN is the 64-bit two's complement of a value of that type. A raw word may present any
DIN (R87): it decodes and runs too, and the machine's meanings do not ask for well-formedness. -/

namespace Sys2Proof

/-- DIN holds the 64-bit form of an unsigned native value of `bits` bits: `[0, 2^bits - 1]` (R96). -/
def dinIsUnsigned (bits : Nat) (din : Din) : Bool :=
  (din.setWidth bits).setWidth 64 == din

/-- DIN holds the 64-bit two's complement of a signed native value of `bits` bits:
`[-(2^(bits-1)), 2^(bits-1)-1]` (R96). -/
def dinIsSigned (bits : Nat) (din : Din) : Bool :=
  (din.setWidth bits).signExtend 64 == din

/-- The operands are in the ranges of R96. -/
def Instr.wellFormed : Instr → Bool
  | .ldnU8 _ v => dinIsUnsigned 8 v
  | .ldnU16 _ v => dinIsUnsigned 16 v
  | .ldnU32 _ v => dinIsUnsigned 32 v
  | .ldnU64 _ v => dinIsUnsigned 64 v
  | .ldnS8 _ v => dinIsSigned 8 v
  | .ldnS16 _ v => dinIsSigned 16 v
  | .ldnS32 _ v => dinIsSigned 32 v
  | .ldnS64 _ v => dinIsSigned 64 v
  | .msb _ | .msbns _ | .isneg _ | .flips _ _ | .getb _ _ | .setb _ _ _ | .mov _ _ => true
  | .not _ _ | .and _ _ _ | .or _ _ _ | .xor _ _ _ => true
  | .shl1 _ _ | .shr1 _ _ | .shl _ _ _ | .shr _ _ _ => true
  | .inc _ _ | .dec _ _ | .neg _ _ | .add _ _ _ | .sub _ _ _ => true
  | .mul _ _ _ | .div _ _ _ | .mod _ _ _ => true
  | .eq _ _ | .lt _ _ | .le _ _ | .gt _ _ | .ge _ _ => true
  | .zero _ | .one _ | .bool _ => true

end Sys2Proof
end

