-- ==== Sys2Proof/Certificates/Slice0/Obligations.lean ====
section
/-! DEFINITION. The statements for the provers.

The results are written with BitVec, Nat and Int arithmetic and with record updates, not with the model's
own cell loops and operations, so that a slip in those makes a statement false. -/

namespace Sys2Proof.Claims

open Sys2Proof.Machine

/-! ## The terms of the statements -/

/-- The pattern in register r. -/
def val (s : State) (r : Reg) : Value s.N := s.block.x[r]

/-- The command completed with code 0 and wrote v to register rd, and changed nothing else: not F, BR,
STICKY, another register, N, READY or the inputs to come. -/
def wrote (s : State) (rd : Reg) (v : Value s.N) : Result :=
  .next { s with block := { s.block with x := s.block.x.set rd v, st := { s.block.st with code := 0 } } }

/-- The command completed with code 0 and wrote v to F, and changed nothing else. -/
def wroteF (s : State) (v : Bool) : Result :=
  .next { s with block := { s.block with f := v, st := { s.block.st with code := 0 } } }

/-- The command completed with code 0 and wrote v to BR, and changed nothing else. -/
def wroteBR (s : State) (v : Byte) : Result :=
  .next { s with block := { s.block with br := v, st := { s.block.st with code := 0 } } }

/-- The command ended in the error of this code: ST.CODE is the code, ST.STICKY is 1, and nothing else
changed. -/
def errored (s : State) (code : BitVec 3) : Result :=
  .next { s with block := { s.block with st := { code := code, sticky := true } } }

/-- `CMD[25:22]`, `CMD[21:18]` and `CMD[17:14]` as register numbers. -/
def rdOf (cmd : Cmd) : Reg := (cmd.extractLsb' 22 4).toFin
def rs1Of (cmd : Cmd) : Reg := (cmd.extractLsb' 18 4).toFin
def rs2Of (cmd : Cmd) : Reg := (cmd.extractLsb' 14 4).toFin

/-- Every word of a row of the opcode map, with any DIN, decodes to the row's command of its fields. -/
def RowDecodes (mask pattern : Cmd) (command : Cmd → Din → Instr) : Prop :=
  ∀ (cmd : Cmd) (din : Din), cmd &&& mask = pattern → decode cmd din = .ok (command cmd din)

/-- Cell i of a value, by its integer. -/
def byteAt {N : Nat} (v : Value N) (i : Nat) : Byte := BitVec.ofNat 8 (v.toNat / 256 ^ i)

/-- The host issues a command, and its turn has come: a legal state, READY = 1, the command at the head of
the inputs. -/
def Issued (s : State) (cmd : Cmd) (din : Din) (rest : List HostEvent) : Prop :=
  s.Legal ∧ s.ready = true ∧ s.port = .issue cmd din :: rest

/-- The must-be-zero mask of each assigned opcode, as R84's "used by" column and R88 give them. -/
def mbzOfOpcode : List (BitVec 6 × Cmd) :=
  [0x09, 0x0A, 0x0B, 0x0E, 0x0F, 0x13, 0x14, 0x15, 0x16, 0x17].map (·, 0x00003FFF) ++
    [0x04, 0x07, 0x08, 0x0C, 0x0D, 0x10, 0x11, 0x12].map (·, 0x0003FFFF) ++
    [0x18, 0x19, 0x1A, 0x1B, 0x1C].map (·, 0x03C03FFF) ++
    [0x01, 0x02, 0x03, 0x05, 0x23].map (·, 0x03C3FFFF) ++
    [0x20, 0x21].map (·, 0x003FFFFF) ++ [(0x22, 0x003FFFF8), (0x06, 0x003FFF00)]

/-- The completion codes that a command can end in (R221, R228). -/
def codesOf : Instr → List (BitVec 3)
  | .div _ _ _ | .mod _ _ _ => [0, 1]
  | .shl _ _ _ | .shr _ _ _ => [0, 3]
  | .getb _ _ | .setb _ _ _ => [0, 4]
  | .ldnU8 _ _ | .ldnU16 _ _ | .ldnU32 _ _ | .ldnU64 _ _ => [0, 5]
  | .ldnS8 _ _ | .ldnS16 _ _ | .ldnS32 _ _ | .ldnS64 _ _ => [0, 5]
  | .msb _ | .msbns _ | .isneg _ | .flips _ _ | .mov _ _ | .bool _ | .zero _ | .one _ => [0]
  | .not _ _ | .and _ _ _ | .or _ _ _ | .xor _ _ _ | .shl1 _ _ | .shr1 _ _ => [0]
  | .inc _ _ | .dec _ _ | .neg _ _ | .add _ _ _ | .sub _ _ _ | .mul _ _ _ => [0]
  | .eq _ _ | .lt _ _ | .le _ _ | .gt _ _ | .ge _ _ => [0]

/-- v is in the range of a signed native type of k bytes. -/
def FitsSigned (k : Nat) (v : Int) : Prop := -(2 ^ (8 * k - 1)) ≤ v ∧ v < 2 ^ (8 * k - 1)

/-- LDN of k bytes: its result, and its error (R202, R223). -/
def LdnLoads (k : Nat) (signed : Bool) (command : Reg → Din → Instr) : Prop :=
  ∀ (s : State) (rd : Reg) (din : Din),
    (k ≤ s.N → exec (command rd din) s = wrote s rd
      (if signed then (din.setWidth (8 * k)).signExtend (8 * s.N)
       else (din.setWidth (8 * k)).setWidth (8 * s.N))) ∧
    (s.N < k → exec (command rd din) s = errored s 5)

end Sys2Proof.Claims

open Sys2Proof Sys2Proof.Machine Sys2Proof.Claims

/-! ## The step, decoding and encoding -/

/-- R94, R41: when the host issues a word that decodes to a command, the step takes it off the inputs and
runs that command, and does nothing around it. -/
def Obligations.StepRunsDecodedCommand : Prop :=
  ∀ (s : State) (cmd : Cmd) (din : Din) (rest : List HostEvent) (i : Instr),
    Issued s cmd din rest → decode cmd din = .ok i → step s = exec i { s with port := rest }

/-- A word of the opcode table put before the step (log entries 3 and 14) is run by the very next step. -/
def Obligations.TableWordRunsNext : Prop :=
  ∀ (s : State) (w : Nat) (i : Instr), s.Legal → decodeTableWord 32 w = some i →
    step (s.withFetchWord 32 w) = exec i { s with ready := true }

/-- R89: a word with a reserved opcode ends in ILLEGAL_COMMAND (code 2) and changes nothing but ST; the
all-zero and the all-ones word are such words. -/
def Obligations.ReservedOpcodesAreIllegal : Prop :=
  (∀ (s : State) (cmd : Cmd) (din : Din) (rest : List HostEvent), Issued s cmd din rest →
    (cmd.extractLsb' 26 6 ∈ [0x00, 0x1D, 0x1E, 0x1F] ∨ 0x24 ≤ (cmd.extractLsb' 26 6).toNat) →
    decode cmd din = .error .reservedOpcode ∧ step s = errored { s with port := rest } 2) ∧
  (∀ (s : State) (din : Din) (rest : List HostEvent) (cmd : Cmd), Issued s cmd din rest →
    cmd = 0x00000000 ∨ cmd = 0xFFFFFFFF → step s = errored { s with port := rest } 2)

/-- R90, with R84's masks: an assigned opcode with a nonzero must-be-zero bit ends in ILLEGAL_COMMAND
(code 2) and changes nothing but ST. -/
def Obligations.MustBeZeroBitsAreIllegal : Prop :=
  ∀ (s : State) (cmd : Cmd) (din : Din) (rest : List HostEvent) (mbz : Cmd), Issued s cmd din rest →
    (cmd.extractLsb' 26 6, mbz) ∈ mbzOfOpcode → cmd &&& mbz ≠ 0 →
    decode cmd din = .error .mustBeZero ∧ step s = errored { s with port := rest } 2

/-- R91: a word matches exactly one row of the opcode table, and decodes to a command of that row, or it
matches none and is illegal. -/
def Obligations.EveryWordMatchesOneRowOrIsIllegal : Prop :=
  ∀ (cmd : Cmd) (din : Din),
    (∃ row i, opcodeRows.filter (fun r => cmd &&& r.mask == r.pattern) = [row] ∧
      decode cmd din = .ok i ∧ i.mnemonic = row.mnemonic) ∨
    (∃ e, opcodeRows.filter (fun r => cmd &&& r.mask == r.pattern) = [] ∧ decode cmd din = .error e)

/-- Decoding the words of a command gives it back, for every command and all its operands. -/
def Obligations.DecodeOfEncode : Prop :=
  ∀ i : Instr, decode (encode i).1 (encode i).2 = .ok i

/-- A word that decodes to a command is the command's own word, bit for bit, and so is DIN where the
command reads it. -/
def Obligations.EncodeOfDecode : Prop :=
  ∀ (cmd : Cmd) (din : Din) (i : Instr), decode cmd din = .ok i →
    (encode i).1 = cmd ∧ (encode i).2 = if i.readsDin then din else 0

/-- Words the spec writes out, one or more of each family, decode to the commands it gives for them. -/
def Obligations.SampleWordsDecode : Prop :=
  decode 0x04040000 0 = .ok (.msb 1) ∧
  decode 0x1900007F 1 = .ok (.setb 4 1 0x7F) ∧
  decode 0x24C48000 0 = .ok (.and 3 1 2) ∧
  decode 0x3C848000 0 = .ok (.shr 2 1 2) ∧
  decode 0x514C8000 0 = .ok (.sub 5 3 2) ∧
  decode 0x640C4000 0 = .ok (.lt 3 1) ∧
  decode 0x89C00006 5 = .ok (.ldnS32 7 5) ∧
  decode 0x8C040000 0 = .ok (.bool 1) ∧
  decode 0x74000000 0 = .error .reservedOpcode ∧
  decode 0x04440000 0 = .error .mustBeZero

/-- R81: a command other than GETB, SETB and LDN ignores DIN wholly: any DIN gives the same result. -/
def Obligations.DinIsIgnored : Prop :=
  ∀ (s : State) (cmd : Cmd) (din din' : Din), cmd.extractLsb' 26 6 ∉ [0x05, 0x06, 0x22] →
    runCommand cmd din s = runCommand cmd din' s

/-! ## Reset, the ports and the run -/

/-- R46: after reset every register is ZERO_W, F = 0, BR = 0x00, ST = 0x00 and READY = 1, at every
width. -/
def Obligations.ResetValues : Prop :=
  ∀ N : Nat, (∀ r : Reg, (State.resetOf N).block.x[r] = 0) ∧ (State.resetOf N).block.f = false ∧
    (State.resetOf N).block.br = 0 ∧ (State.resetOf N).block.st.byte = 0x00 ∧
    (State.resetOf N).ready = true

/-- R250: RESET to 1 makes READY 0; when it returns to 0 every piece of state holds its reset value and
READY is 1, whatever the state was. The clause `t.outputs = none` is the model's own choice and no rule's:
the spec leaves the outputs unspecified while READY = 0 (R42), and the model gives none (log entry 11). -/
def Obligations.ResetRestoresEverything : Prop :=
  ∀ (s : State) (rest : List HostEvent), s.Legal → s.port = .reset true :: .reset false :: rest →
    ∃ t, step s = .next t ∧ t.ready = false ∧ t.outputs = none ∧
      step t = .next { State.resetOf s.N with port := rest }

/-- R251: a command that RESET interrupts is abandoned: none of its writes survive, and the state after
reset is the reset state. -/
def Obligations.InterruptedCommandLeavesNothing : Prop :=
  ∀ (s : State) (cmd : Cmd) (din : Din) (rest : List HostEvent), s.Legal → s.ready = true →
    s.port = .issueThenReset cmd din :: .reset false :: rest →
    ∃ t, step s = .next t ∧ t.ready = false ∧ step t = .next { State.resetOf s.N with port := rest }

/-- R256 with 93_implementation_defined.md U6: the model has no move for an ISSUE while READY = 0, and says
so by name (log entry 5). -/
def Obligations.IssueWhileNotReadyIsRefused : Prop :=
  ∀ (s : State) (cmd : Cmd) (din : Din) (rest : List HostEvent), s.Legal → s.ready = false →
    s.port = .issue cmd din :: rest ∨ s.port = .issueThenReset cmd din :: rest →
    step s = .refused .issueWhileNotReady

/-- R37, R42: while READY = 1 the outputs show F, BR and ST, and ST has CODE at bits 2..0, STICKY at bit 3
and 0 at bits 7..4. That the model gives no output while READY = 0 is its own reading of R42 (log
entry 11). -/
def Obligations.OutputsShowTheRegisters : Prop :=
  ∀ s : State,
    (s.ready = true → ∃ o, s.outputs = some o ∧ o.f = s.block.f ∧ o.br = s.block.br ∧
      o.st.toNat = s.block.st.code.toNat + 8 * s.block.st.sticky.toNat) ∧
    (s.ready = false → s.outputs = none)

/-- R258, R238: with no input, a block with READY = 1 holds its state (log entry 10). That a block with
READY = 0, which these rules do not speak of, holds its registers too until RESET falls is the model's own
choice (log entry 4). -/
def Obligations.IdleBlockHoldsItsState : Prop :=
  ∀ s : State, s.Legal → s.port = [] → step s = .next s

/-- Every step keeps the state legal: N ≥ 1 (R6), CODE is 0 to 5 (R37, R221), and an error's code comes
with STICKY (R23). -/
def Obligations.StepKeepsLegalStates : Prop :=
  ∀ s t : State, s.Legal → step s = .next t → t.Legal

/-- The state after reset is legal, at every width a block can have; State.reset is that state at the width
8, which is the model's choice (log entry 2). -/
def Obligations.ResetStateIsLegal : Prop :=
  (∀ N : Nat, 0 < N → (State.resetOf N).Legal) ∧ State.reset = State.resetOf 8

/-- R6, R44: N is a parameter; no step changes it. -/
def Obligations.StepKeepsTheWidth : Prop :=
  ∀ s t : State, step s = .next t → t.N = s.N

/-- R45, R259: from every legal state with READY = 1, every command, legal or not, completes in one step,
with READY = 1 again. -/
def Obligations.EveryIssuedCommandCompletes : Prop :=
  ∀ (s : State) (cmd : Cmd) (din : Din) (rest : List HostEvent), Issued s cmd din rest →
    ∃ b : Block s.N, step s = .next { N := s.N, block := b, ready := true, port := rest }

/-- R220: a command that ends in an error, of any word, leaves the state before it with only ST changed:
CODE is the error's and STICKY is 1. -/
def Obligations.ErrorsChangeOnlyStatus : Prop :=
  ∀ (s : State) (cmd : Cmd) (din : Din), ∃ b : Block s.N,
    runCommand cmd din s = .next { s with block := b } ∧
    (b.st.code ≠ 0 → b = { s.block with st := { code := b.st.code, sticky := true } })

/-- R221, R227, R228: a decoded command ends in code 0 or in the one error of its own opcode, and an
undecoded word in code 2. -/
def Obligations.CommandsEndInTheirOwnCodes : Prop :=
  (∀ (s : State) (i : Instr), ∃ b : Block s.N, exec i s = .next { s with block := b } ∧
    b.st.code ∈ codesOf i) ∧
  (∀ (s : State) (cmd : Cmd) (din : Din) (e : DecodeError), decode cmd din = .error e →
    runCommand cmd din s = errored s 2)

/-- R32, R34, R36: the frame of every command. A value register other than the destination is unchanged;
F and BR are unchanged by the commands that do not write them; N, READY and the inputs to come are
unchanged; STICKY is unchanged by a command that completes. -/
def Obligations.FrameOfEveryCommand : Prop :=
  ∀ (s : State) (i : Instr), ∃ b : Block s.N, exec i s = .next { s with block := b } ∧
    (∀ r : Reg, i.dest ≠ some r → b.x[r] = s.block.x[r]) ∧
    (i.writesF = false → b.f = s.block.f) ∧
    (i.writesBR = false → b.br = s.block.br) ∧
    (b.st.code = 0 → b.st.sticky = s.block.st.sticky)

/-- R39: STICKY is set by every command whose completion code is not 0, no command clears it, and RESET
does. -/
def Obligations.StickyIsSetByErrorsAndClearedByReset : Prop :=
  (∀ (s : State) (cmd : Cmd) (din : Din), ∃ b : Block s.N,
    runCommand cmd din s = .next { s with block := b } ∧
    b.st.sticky = (s.block.st.sticky || decide (b.st.code ≠ 0))) ∧
  (∀ s : State, s.ready = false → s.resetFalls.block.st.sticky = false)

/-- R39, R263: a run of any commands from a legal state with STICKY = 0 is observed to its end, one output
a command, and STICKY is 0 at the end exactly if every output read showed CODE = 0. -/
def Obligations.StickyZeroMeansEveryCommandCompleted : Prop :=
  ∀ (cmds : List (Cmd × Din)) (s : State), s.Legal → s.ready = true → s.block.st.sticky = false →
    ∃ t outs, observe cmds s = some (t, outs) ∧ outs.length = cmds.length ∧
      (t.block.st.sticky = false ↔ ∀ o ∈ outs, o.code = 0)

/-- R32: what a command does depends only on the value registers it reads. Two blocks that agree on those
end in the same code, and where that is 0 the register, F or BR that the command writes is the same. -/
def Obligations.CommandsDependOnlyOnTheirSources : Prop :=
  ∀ (N : Nat) (b c : Block N) (ready ready' : Bool) (port port' : List HostEvent) (i : Instr),
    (∀ r ∈ i.sources, b.x[r] = c.x[r]) →
    ∃ b' c' : Block N, exec i ⟨N, b, ready, port⟩ = .next ⟨N, b', ready, port⟩ ∧
      exec i ⟨N, c, ready', port'⟩ = .next ⟨N, c', ready', port'⟩ ∧
      b'.st.code = c'.st.code ∧
      (b'.st.code = 0 → (∀ r, i.dest = some r → b'.x[r] = c'.x[r]) ∧
        (i.writesF = true → b'.f = c'.f) ∧ (i.writesBR = true → b'.br = c'.br))

/-- R69: a command that writes no value register, issued again, changes nothing: F, BR and ST are the same
both times. -/
def Obligations.ReadOnlyCommandsRepeat : Prop :=
  ∀ (s : State) (i : Instr), i.dest = none → ∃ t, exec i s = .next t ∧ exec i t = .next t

/-! ## Byte-storage core (40_storage.md) -/

/-- R110, R111: MSB puts the most significant cell in BR, MSBNS the same with bit 7 cleared. -/
def Obligations.MostSignificantByteCommands : Prop :=
  RowDecodes 0xFFC3FFFF 0x04000000 (fun c _ => .msb (rs1Of c)) ∧
  RowDecodes 0xFFC3FFFF 0x08000000 (fun c _ => .msbns (rs1Of c)) ∧
  ∀ (s : State) (rs1 : Reg),
    exec (.msb rs1) s = wroteBR s (byteAt (val s rs1) (s.N - 1)) ∧
    exec (.msbns rs1) s = wroteBR s (BitVec.ofNat 8 ((val s rs1).toNat / 256 ^ (s.N - 1) % 128))

/-- R112: ISNEG sets F exactly if the signed value is negative. -/
def Obligations.SignQueryCommand : Prop :=
  RowDecodes 0xFFC3FFFF 0x0C000000 (fun c _ => .isneg (rs1Of c)) ∧
  ∀ (s : State) (rs1 : Reg), exec (.isneg rs1) s = wroteF s (decide ((val s rs1).toInt < 0))

/-- R113: FLIPS writes the operand with its sign bit flipped, that is, XOR MIN_W. -/
def Obligations.FlipSignCommand : Prop :=
  RowDecodes 0xFC03FFFF 0x10000000 (fun c _ => .flips (rdOf c) (rs1Of c)) ∧
  ∀ (s : State) (rd rs1 : Reg),
    exec (.flips rd rs1) s = wrote s rd (val s rs1 ^^^ BitVec.intMin (8 * s.N))

/-- R114: MOV copies. -/
def Obligations.CopyCommand : Prop :=
  RowDecodes 0xFC03FFFF 0x1C000000 (fun c _ => .mov (rdOf c) (rs1Of c)) ∧
  ∀ (s : State) (rd rs1 : Reg), exec (.mov rd rs1) s = wrote s rd (val s rs1)

/-- R115, R224: GETB puts cell idx in BR, idx being all of DIN unsigned; an index of N or more ends in
BYTE_INDEX_RANGE (code 4). -/
def Obligations.GetbReadsOneCell : Prop :=
  RowDecodes 0xFFC3FFFF 0x14000000 (fun c d => .getb (rs1Of c) d) ∧
  ∀ (s : State) (rs1 : Reg) (din : Din),
    (din.toNat < s.N → exec (.getb rs1 din) s = wroteBR s (byteAt (val s rs1) din.toNat)) ∧
    (s.N ≤ din.toNat → exec (.getb rs1 din) s = errored s 4)

/-- R116, R224: SETB writes imm8 to cell idx of the register and keeps every other cell; an index of N or
more ends in BYTE_INDEX_RANGE (code 4). -/
def Obligations.SetbWritesOneCell : Prop :=
  RowDecodes 0xFC3FFF00 0x18000000 (fun c d => .setb (rdOf c) d (c.extractLsb' 0 8)) ∧
  ∀ (s : State) (rd : Reg) (din : Din) (imm8 : Byte),
    (din.toNat < s.N → ∃ v : Value s.N, exec (.setb rd din imm8) s = wrote s rd v ∧
      ∀ j, j < s.N → byteAt v j = if j = din.toNat then imm8 else byteAt (val s rd) j) ∧
    (s.N ≤ din.toNat → exec (.setb rd din imm8) s = errored s 4)

/-! ## Bitwise engine (41_bitwise.md) -/

/-- R130 to R133: NOT, AND, OR and XOR, bit by bit, on whole values. -/
def Obligations.BitwiseLogicCommands : Prop :=
  RowDecodes 0xFC03FFFF 0x20000000 (fun c _ => .not (rdOf c) (rs1Of c)) ∧
  RowDecodes 0xFC003FFF 0x24000000 (fun c _ => .and (rdOf c) (rs1Of c) (rs2Of c)) ∧
  RowDecodes 0xFC003FFF 0x28000000 (fun c _ => .or (rdOf c) (rs1Of c) (rs2Of c)) ∧
  RowDecodes 0xFC003FFF 0x2C000000 (fun c _ => .xor (rdOf c) (rs1Of c) (rs2Of c)) ∧
  ∀ (s : State) (rd rs1 rs2 : Reg),
    exec (.not rd rs1) s = wrote s rd (~~~val s rs1) ∧
    exec (.and rd rs1 rs2) s = wrote s rd (val s rs1 &&& val s rs2) ∧
    exec (.or rd rs1 rs2) s = wrote s rd (val s rs1 ||| val s rs2) ∧
    exec (.xor rd rs1 rs2) s = wrote s rd (val s rs1 ^^^ val s rs2)

/-- R134, R135: SHL1 is `enc(2 * uval(a))`; SHR1 is `enc(floor(uval(a) / 2))`, a logical shift. -/
def Obligations.SingleBitShiftCommands : Prop :=
  RowDecodes 0xFC03FFFF 0x30000000 (fun c _ => .shl1 (rdOf c) (rs1Of c)) ∧
  RowDecodes 0xFC03FFFF 0x34000000 (fun c _ => .shr1 (rdOf c) (rs1Of c)) ∧
  ∀ (s : State) (rd rs1 : Reg),
    exec (.shl1 rd rs1) s = wrote s rd (BitVec.ofNat (8 * s.N) (2 * (val s rs1).toNat)) ∧
    exec (.shr1 rd rs1) s = wrote s rd (BitVec.ofNat (8 * s.N) ((val s rs1).toNat / 2))

/-- R136 to R138, R226: SHL and SHR by the signed value of x[rs2]; a negative amount ends in
UNDEFINED_SHIFT (code 3), and an amount of W or more gives ZERO_W. -/
def Obligations.RegisterShiftCommands : Prop :=
  RowDecodes 0xFC003FFF 0x38000000 (fun c _ => .shl (rdOf c) (rs1Of c) (rs2Of c)) ∧
  RowDecodes 0xFC003FFF 0x3C000000 (fun c _ => .shr (rdOf c) (rs1Of c) (rs2Of c)) ∧
  ∀ (s : State) (rd rs1 rs2 : Reg),
    ((val s rs2).toInt < 0 →
      exec (.shl rd rs1 rs2) s = errored s 3 ∧ exec (.shr rd rs1 rs2) s = errored s 3) ∧
    (0 ≤ (val s rs2).toInt →
      exec (.shl rd rs1 rs2) s =
        wrote s rd (BitVec.ofNat (8 * s.N) ((val s rs1).toNat * 2 ^ (val s rs2).toInt.toNat)) ∧
      exec (.shr rd rs1 rs2) s =
        wrote s rd (BitVec.ofNat (8 * s.N) ((val s rs1).toNat / 2 ^ (val s rs2).toInt.toNat))) ∧
    (8 * (s.N : Int) ≤ (val s rs2).toInt →
      exec (.shl rd rs1 rs2) s = wrote s rd 0 ∧ exec (.shr rd rs1 rs2) s = wrote s rd 0)

/-- R137, R138: the closed forms that SHL and SHR write are what s single-bit steps of the cell engine
give. -/
def Obligations.ShiftsAreRepeatedSingleSteps : Prop :=
  ∀ (N : Nat) (a : Value N) (s : Nat), shlFn a s = shlSteps s a ∧ shrFn a s = shrSteps s a

/-! ## Arithmetic engine (42_arithmetic.md) -/

/-- R150 to R152: the cell loops ADD_fn, INC_fn, DEC_fn and NEG_fn wrap modulo 2^W, with the same result
for the signed and the unsigned readings of the operands. -/
def Obligations.CellEngineWraps : Prop :=
  ∀ (N : Nat) (a b : Value N),
    addFn a b = BitVec.ofInt (8 * N) (a.toInt + b.toInt) ∧
    addFn a b = BitVec.ofNat (8 * N) (a.toNat + b.toNat) ∧
    incFn a = BitVec.ofInt (8 * N) (a.toInt + 1) ∧
    decFn a = BitVec.ofInt (8 * N) (a.toInt - 1) ∧
    negFn a = BitVec.ofInt (8 * N) (-a.toInt)

/-- R153 to R155: INC, DEC and NEG write the wrapped result. -/
def Obligations.UnaryArithmeticCommands : Prop :=
  RowDecodes 0xFC03FFFF 0x40000000 (fun c _ => .inc (rdOf c) (rs1Of c)) ∧
  RowDecodes 0xFC03FFFF 0x44000000 (fun c _ => .dec (rdOf c) (rs1Of c)) ∧
  RowDecodes 0xFC03FFFF 0x48000000 (fun c _ => .neg (rdOf c) (rs1Of c)) ∧
  ∀ (s : State) (rd rs1 : Reg),
    exec (.inc rd rs1) s = wrote s rd (BitVec.ofInt (8 * s.N) ((val s rs1).toInt + 1)) ∧
    exec (.dec rd rs1) s = wrote s rd (BitVec.ofInt (8 * s.N) ((val s rs1).toInt - 1)) ∧
    exec (.neg rd rs1) s = wrote s rd (BitVec.ofInt (8 * s.N) (-(val s rs1).toInt))

/-- R156, R157: ADD and SUB write the wrapped sum and difference. -/
def Obligations.AdditionAndSubtractionCommands : Prop :=
  RowDecodes 0xFC003FFF 0x4C000000 (fun c _ => .add (rdOf c) (rs1Of c) (rs2Of c)) ∧
  RowDecodes 0xFC003FFF 0x50000000 (fun c _ => .sub (rdOf c) (rs1Of c) (rs2Of c)) ∧
  ∀ (s : State) (rd rs1 rs2 : Reg),
    exec (.add rd rs1 rs2) s =
      wrote s rd (BitVec.ofInt (8 * s.N) ((val s rs1).toInt + (val s rs2).toInt)) ∧
    exec (.sub rd rs1 rs2) s =
      wrote s rd (BitVec.ofInt (8 * s.N) ((val s rs1).toInt - (val s rs2).toInt))

/-- R158: MUL writes the low W bits of the product, the same for the signed and the unsigned readings;
R158's repeated additions on the cell engine, with |b| unbounded, give the same. -/
def Obligations.MultiplicationCommand : Prop :=
  RowDecodes 0xFC003FFF 0x54000000 (fun c _ => .mul (rdOf c) (rs1Of c) (rs2Of c)) ∧
  ∀ (s : State) (rd rs1 rs2 : Reg),
    exec (.mul rd rs1 rs2) s =
      wrote s rd (BitVec.ofInt (8 * s.N) ((val s rs1).toInt * (val s rs2).toInt)) ∧
    exec (.mul rd rs1 rs2) s =
      wrote s rd (BitVec.ofNat (8 * s.N) ((val s rs1).toNat * (val s rs2).toNat)) ∧
    exec (.mul rd rs1 rs2) s = wrote s rd (mulSteps (val s rs1) (val s rs2))

/-- R159, R160, R225: a zero divisor ends in DIVISION_BY_ZERO (code 1); for any other, DIV and MOD write
the parameters' values, of which nothing is assumed. -/
def Obligations.DivisionCommands : Prop :=
  RowDecodes 0xFC003FFF 0x58000000 (fun c _ => .div (rdOf c) (rs1Of c) (rs2Of c)) ∧
  RowDecodes 0xFC003FFF 0x5C000000 (fun c _ => .mod (rdOf c) (rs1Of c) (rs2Of c)) ∧
  ∀ (s : State) (rd rs1 rs2 : Reg),
    ((val s rs2).toNat = 0 →
      exec (.div rd rs1 rs2) s = errored s 1 ∧ exec (.mod rd rs1 rs2) s = errored s 1) ∧
    ((val s rs2).toNat ≠ 0 →
      exec (.div rd rs1 rs2) s = wrote s rd (Config.divFn s.N (val s rs1) (val s rs2)) ∧
      exec (.mod rd rs1 rs2) s = wrote s rd (Config.modFn s.N (val s rs1) (val s rs2)))

/-- R161: the laws of the cell engine that the source states. -/
def Obligations.CellEngineLaws : Prop :=
  ∀ (N : Nat),
    (∀ a b : Value N, addFn a b = addFn b a) ∧
    (∀ a : Value N, addFn a (negFn a) = zeroW N) ∧
    addFn (maxW N) (oneW N) = minW N ∧
    addFn (minW N) (negFn (oneW N)) = maxW N ∧
    (∀ a : Value N, negFn (negFn a) = a) ∧
    negFn (minW N) = minW N ∧
    incFn (incFn (zeroW N)) = enc N 2

/-! ## Comparison engine (43_comparison.md) -/

/-- R181 to R185: EQ, LT, LE, GT and GE set F to the comparison of the signed values. -/
def Obligations.ComparisonCommands : Prop :=
  RowDecodes 0xFFC03FFF 0x60000000 (fun c _ => .eq (rs1Of c) (rs2Of c)) ∧
  RowDecodes 0xFFC03FFF 0x64000000 (fun c _ => .lt (rs1Of c) (rs2Of c)) ∧
  RowDecodes 0xFFC03FFF 0x68000000 (fun c _ => .le (rs1Of c) (rs2Of c)) ∧
  RowDecodes 0xFFC03FFF 0x6C000000 (fun c _ => .gt (rs1Of c) (rs2Of c)) ∧
  RowDecodes 0xFFC03FFF 0x70000000 (fun c _ => .ge (rs1Of c) (rs2Of c)) ∧
  ∀ (s : State) (rs1 rs2 : Reg),
    exec (.eq rs1 rs2) s = wroteF s (decide ((val s rs1).toInt = (val s rs2).toInt)) ∧
    exec (.lt rs1 rs2) s = wroteF s (decide ((val s rs1).toInt < (val s rs2).toInt)) ∧
    exec (.le rs1 rs2) s = wroteF s (decide ((val s rs1).toInt ≤ (val s rs2).toInt)) ∧
    exec (.gt rs1 rs2) s = wroteF s (decide ((val s rs2).toInt < (val s rs1).toInt)) ∧
    exec (.ge rs1 rs2) s = wroteF s (decide ((val s rs2).toInt ≤ (val s rs1).toInt))

/-- R186: LT_fn, the four-step cell comparison, is a strict total order of the values, and a negative value
is below every other. -/
def Obligations.LessThanIsATotalOrder : Prop :=
  ∀ (N : Nat) (a b c : Value N),
    (ltFn a b = true ∧ a ≠ b ∧ ltFn b a = false ∨ ltFn a b = false ∧ a = b ∧ ltFn b a = false ∨
      ltFn a b = false ∧ a ≠ b ∧ ltFn b a = true) ∧
    ltFn a a = false ∧
    ¬(ltFn a b = true ∧ ltFn b a = true) ∧
    (ltFn a b = true → ltFn b c = true → ltFn a c = true) ∧
    (a.toInt < 0 → 0 ≤ b.toInt → ltFn a b = true)

/-! ## Construction and conversion (44_construction.md) -/

/-- R200, R201: ZERO and ONE write the constants 0 and 1. -/
def Obligations.ConstantCommands : Prop :=
  RowDecodes 0xFC3FFFFF 0x80000000 (fun c _ => .zero (rdOf c)) ∧
  RowDecodes 0xFC3FFFFF 0x84000000 (fun c _ => .one (rdOf c)) ∧
  ∀ (s : State) (rd : Reg),
    exec (.zero rd) s = wrote s rd 0 ∧ exec (.one rd) s = wrote s rd 1

/-- R202, R223: LDN of each native width k and signedness writes the low k bytes of DIN, sign- or
zero-extended; k > N ends in WIDTH_TOO_SMALL (code 5). -/
def Obligations.NativeLoadCommands : Prop :=
  (RowDecodes 0xFC3FFFFF 0x88000000 (fun c d => .ldnU8 (rdOf c) d) ∧ LdnLoads 1 false .ldnU8) ∧
  (RowDecodes 0xFC3FFFFF 0x88000001 (fun c d => .ldnU16 (rdOf c) d) ∧ LdnLoads 2 false .ldnU16) ∧
  (RowDecodes 0xFC3FFFFF 0x88000002 (fun c d => .ldnU32 (rdOf c) d) ∧ LdnLoads 4 false .ldnU32) ∧
  (RowDecodes 0xFC3FFFFF 0x88000003 (fun c d => .ldnU64 (rdOf c) d) ∧ LdnLoads 8 false .ldnU64) ∧
  (RowDecodes 0xFC3FFFFF 0x88000004 (fun c d => .ldnS8 (rdOf c) d) ∧ LdnLoads 1 true .ldnS8) ∧
  (RowDecodes 0xFC3FFFFF 0x88000005 (fun c d => .ldnS16 (rdOf c) d) ∧ LdnLoads 2 true .ldnS16) ∧
  (RowDecodes 0xFC3FFFFF 0x88000006 (fun c d => .ldnS32 (rdOf c) d) ∧ LdnLoads 4 true .ldnS32) ∧
  (RowDecodes 0xFC3FFFFF 0x88000007 (fun c d => .ldnS64 (rdOf c) d) ∧ LdnLoads 8 true .ldnS64)

/-- R203: BOOL sets F exactly if the value is not 0. -/
def Obligations.BooleanConversionCommand : Prop :=
  RowDecodes 0xFFC3FFFF 0x8C000000 (fun c _ => .bool (rs1Of c)) ∧
  ∀ (s : State) (rs1 : Reg), exec (.bool rs1) s = wroteF s (decide ((val s rs1).toInt ≠ 0))

/-- R202, R204: the signed value that LDN loads is the native value: for every signed type that fits, and
for every unsigned type of fewer bytes than N; for one of N bytes it is the value wrapped. -/
def Obligations.NativeValuesRoundTrip : Prop :=
  ∀ (N k : Nat) (din : Din), 0 < k → k ≤ N → k ≤ 8 →
    (ofCells N (nativeCells N k true din)).toInt = (din.setWidth (8 * k)).toInt ∧
    (k < N → (ofCells N (nativeCells N k false din)).toInt = ((din.setWidth (8 * k)).toNat : Int)) ∧
    (k = N → (ofCells N (nativeCells N k false din)).toInt = (din.setWidth (8 * k)).toInt)

/-! ## The assembler (30_encoding.md sections 7 and 8) -/

/-- R101, R102: `min rd` and `max rd`, expanded and run, leave MIN_W and MAX_W in x[rd], change nothing
else and complete with code 0. -/
def Obligations.MinAndMaxPseudoInstructions : Prop :=
  ∀ (s : State) (rd : Reg),
    assemble s.N "min" [.reg rd] = some [.zero rd, .flips rd rd] ∧
    runInstrs [.zero rd, .flips rd rd] s = wrote s rd (BitVec.intMin (8 * s.N)) ∧
    assemble s.N "max" [.reg rd] = some [.zero rd, .flips rd rd, .not rd rd] ∧
    runInstrs [.zero rd, .flips rd rd, .not rd rd] s = wrote s rd (~~~BitVec.intMin (8 * s.N))

/-- R99: `li rd, v` is LDN at the smallest signed native width k ≤ N that v fits, with v on DIN, and leaves
v in x[rd]; where v fits none, the assembler rejects the line. -/
def Obligations.LoadImmediateLoadsItsValue : Prop :=
  ∀ (s : State) (rd : Reg) (v : Int),
    (∀ p ∈ [(1, Instr.ldnS8), (2, Instr.ldnS16), (4, Instr.ldnS32), (8, Instr.ldnS64)],
      p.1 ≤ s.N → FitsSigned p.1 v → (∀ j ∈ [1, 2, 4, 8], j < p.1 → ¬FitsSigned j v) →
      assemble s.N "li" [.reg rd, .int v] = some [p.2 rd (BitVec.ofInt 64 v)] ∧
      exec (p.2 rd (BitVec.ofInt 64 v)) s = wrote s rd (BitVec.ofInt (8 * s.N) v) ∧
      (BitVec.ofInt (8 * s.N) v).toInt = v) ∧
    ((∀ k ∈ [1, 2, 4, 8], k ≤ s.N → ¬FitsSigned k v) →
      assemble s.N "li" [.reg rd, .int v] = none)

/-- R100: the one-operand shorthands are the RR commands with rs1 = rd. -/
def Obligations.InPlaceShorthands : Prop :=
  ∀ (N : Nat) (rd : Reg),
    assemble N "inc" [.reg rd] = some [.inc rd rd] ∧ assemble N "dec" [.reg rd] = some [.dec rd rd] ∧
    assemble N "neg" [.reg rd] = some [.neg rd rd] ∧ assemble N "not" [.reg rd] = some [.not rd rd] ∧
    assemble N "shl1" [.reg rd] = some [.shl1 rd rd] ∧ assemble N "shr1" [.reg rd] = some [.shr1 rd rd] ∧
    assemble N "flips" [.reg rd] = some [.flips rd rd]

/-- R96: a well-formed command is what the assembler makes of its mnemonic and its operands. -/
def Obligations.AssemblerReadsBackCommands : Prop :=
  ∀ (N : Nat) (i : Instr), i.wellFormed = true →
    assemble N i.mnemonic (operands i) = some [i]

/-- R97: an illegal word disassembles as `.word` and its eight digits; a word of a row as the row's
mnemonic, a blank and its operands. -/
def Obligations.DisassemblyOfEveryWord : Prop :=
  ∀ (cmd : Cmd) (din : Din),
    (∀ e, decode cmd din = .error e → disassemble cmd din = ".word 0x".toList ++ wordText cmd) ∧
    (∀ i, decode cmd din = .ok i → ∃ row ∈ opcodeRows, cmd &&& row.mask = row.pattern ∧
      disassemble cmd din = row.mnemonic.toList ++ ' ' :: operandsText (operands i))
end

