-- ==== Sys2Proof/Laws/Cells.lean ====
section
/-! SUPPORT. Cells and values: a value is its N cells (R14, R31), and the cells give its unsigned integer
back. -/

namespace Sys2Proof.Machine

variable {N : Nat}

@[simp] theorem length_cells (v : Value N) : (cells v).length = N := by
  simp [cells]

/-- n cells hold an integer below 256^n. -/
theorem cellsVal_lt (cs : List Byte) : cellsVal cs < 256 ^ cs.length := by
  induction cs with
  | nil => simp [cellsVal]
  | cons c cs ih =>
    have := c.isLt
    simp only [cellsVal, List.length_cons, Nat.pow_succ]
    omega

/-- The high cells of a list weigh 256 to the number of its low cells. -/
theorem cellsVal_append (as bs : List Byte) :
    cellsVal (as ++ bs) = cellsVal as + 256 ^ as.length * cellsVal bs := by
  induction as with
  | nil => simp [cellsVal]
  | cons a as ih =>
    simp only [List.cons_append, cellsVal, ih, List.length_cons, Nat.pow_succ]
    ring

/-- The integer of one cell. -/
theorem cell_toNat (v : Value N) (i : Nat) : (cell v i).toNat = v.toNat / 256 ^ i % 256 := by
  simp [cell, BitVec.extractLsb'_toNat, Nat.shiftRight_eq_div_pow, Nat.pow_mul]

/-- The first n cells hold the value modulo 256^n. -/
theorem cellsVal_take (v : Value N) (n : Nat) :
    cellsVal ((List.range n).map (cell v)) = v.toNat % 256 ^ n := by
  induction n with
  | zero => simp [cellsVal, Nat.mod_one]
  | succ n ih =>
    rw [List.range_succ, List.map_append, cellsVal_append, ih]
    simp [cellsVal, cell_toNat, Nat.mod_pow_succ]

/-- `2^W = 256^N`. -/
theorem two_pow_width (N : Nat) : 2 ^ (8 * N) = 256 ^ N := by
  rw [Nat.pow_mul]

/-- The cells of a value hold its unsigned integer. -/
theorem cellsVal_cells (v : Value N) : cellsVal (cells v) = v.toNat := by
  rw [cells, cellsVal_take, ← two_pow_width, Nat.mod_eq_of_lt v.isLt]

/-- A value is put together again from its cells. -/
theorem ofCells_cells (v : Value N) : ofCells N (cells v) = v := by
  simp [ofCells, cellsVal_cells]

theorem ofCells_toNat (cs : List Byte) : (ofCells N cs).toNat = cellsVal cs % 256 ^ N := by
  simp [ofCells, two_pow_width]

/-- Lists of the same length that hold the same integer are the same cells. -/
theorem cellsVal_inj (as bs : List Byte) (hl : as.length = bs.length)
    (h : cellsVal as = cellsVal bs) : as = bs := by
  induction as generalizing bs with
  | nil => cases bs <;> simp_all
  | cons a as ih =>
    cases bs with
    | nil => simp at hl
    | cons b bs =>
      have ha := a.isLt
      have hb := b.isLt
      simp only [cellsVal] at h
      simp only [List.length_cons, Nat.add_right_cancel_iff] at hl
      have h1 : a.toNat = b.toNat := by omega
      have h2 : cellsVal as = cellsVal bs := by omega
      rw [BitVec.eq_of_toNat_eq h1, ih bs hl h2]

/-- N cells are the cells of the value they make. -/
theorem cells_ofCells (cs : List Byte) (h : cs.length = N) : cells (ofCells N cs) = cs := by
  apply cellsVal_inj _ _ (by simp [h])
  rw [cellsVal_cells, ofCells_toNat, Nat.mod_eq_of_lt]
  rw [← h]
  exact cellsVal_lt cs

/-- Two values with the same cells are equal (R31). -/
theorem cells_inj (a b : Value N) (h : cells a = cells b) : a = b := by
  rw [← ofCells_cells a, h, ofCells_cells]

/-- Cell i of a value is the i-th of its cells. -/
theorem getElem_cells (v : Value N) (i : Nat) (h : i < (cells v).length) : (cells v)[i] = cell v i := by
  simp [cells]

end Sys2Proof.Machine
end

