-- ==== Sys2Proof/Laws/State.lean ====
section
/-! SUPPORT. One lemma per field per update, true by rfl, and the read-after-write laws of the registers. -/

namespace Sys2Proof.Machine

section BlockUpdates

variable {N : Nat} (b : Block N) (r r' : Reg) (v : Value N) (f : Bool) (c : Byte) (e : Error)

@[simp] theorem Block.setReg_f : (b.setReg r v).f = b.f := rfl
@[simp] theorem Block.setReg_br : (b.setReg r v).br = b.br := rfl
@[simp] theorem Block.setReg_st : (b.setReg r v).st = b.st := rfl
@[simp] theorem Block.setF_x : (b.setF f).x = b.x := rfl
@[simp] theorem Block.setF_f : (b.setF f).f = f := rfl
@[simp] theorem Block.setF_br : (b.setF f).br = b.br := rfl
@[simp] theorem Block.setF_st : (b.setF f).st = b.st := rfl
@[simp] theorem Block.setBr_x : (b.setBr c).x = b.x := rfl
@[simp] theorem Block.setBr_f : (b.setBr c).f = b.f := rfl
@[simp] theorem Block.setBr_br : (b.setBr c).br = c := rfl
@[simp] theorem Block.setBr_st : (b.setBr c).st = b.st := rfl
@[simp] theorem Block.complete_x : b.complete.x = b.x := rfl
@[simp] theorem Block.complete_f : b.complete.f = b.f := rfl
@[simp] theorem Block.complete_br : b.complete.br = b.br := rfl
@[simp] theorem Block.complete_code : b.complete.st.code = 0 := rfl
@[simp] theorem Block.complete_sticky : b.complete.st.sticky = b.st.sticky := rfl
@[simp] theorem Block.afterError_x : (b.afterError e).x = b.x := rfl
@[simp] theorem Block.afterError_f : (b.afterError e).f = b.f := rfl
@[simp] theorem Block.afterError_br : (b.afterError e).br = b.br := rfl
@[simp] theorem Block.afterError_code : (b.afterError e).st.code = e.code := rfl
@[simp] theorem Block.afterError_sticky : (b.afterError e).st.sticky = true := rfl

/-- A write to a register is read back from it. -/
@[simp] theorem Block.reg_setReg_same : (b.setReg r v).reg r = v := by
  simp [Block.reg, Block.setReg]

/-- A write to a register leaves every other register alone. -/
theorem Block.reg_setReg_other (h : r ≠ r') : (b.setReg r v).reg r' = b.reg r' := by
  have h' : (r : Nat) ≠ r' := fun hv => h (Fin.ext hv)
  simp [Block.reg, Block.setReg, h']

/-- Every error has a code from 1 to 5. -/
theorem Error.code_range : 1 ≤ e.code.toNat ∧ e.code.toNat ≤ 5 := by
  cases e <;> decide

theorem Error.code_ne_zero : e.code ≠ 0 := by
  cases e <;> decide

end BlockUpdates

section StateUpdates

variable (s : State) (cmd : Cmd) (din : Din)

@[simp] theorem State.resetRises_N : s.resetRises.N = s.N := rfl
@[simp] theorem State.resetRises_block : s.resetRises.block = s.block := rfl
@[simp] theorem State.resetRises_ready : s.resetRises.ready = false := rfl
@[simp] theorem State.resetRises_port : s.resetRises.port = s.port := rfl
@[simp] theorem State.resetFalls_ready : s.resetFalls.ready = true := by
  cases h : s.ready <;> simp [State.resetFalls, h]
@[simp] theorem State.resetFalls_port : s.resetFalls.port = s.port := by
  cases h : s.ready <;> simp [State.resetFalls, h]
@[simp] theorem State.resetFalls_N : s.resetFalls.N = s.N := by
  cases h : s.ready <;> simp [State.resetFalls, h]
@[simp] theorem State.withCommand_N : (s.withCommand cmd din).N = s.N := rfl
@[simp] theorem State.withCommand_block : (s.withCommand cmd din).block = s.block := rfl
@[simp] theorem State.withCommand_ready : (s.withCommand cmd din).ready = true := rfl
@[simp] theorem State.withCommand_port :
    (s.withCommand cmd din).port = .issue cmd din :: s.port := rfl

end StateUpdates

end Sys2Proof.Machine
end

