-- ==== Sys2Proof/Laws/Exec.lean ====
section
/-! SUPPORT. How a command ends: one lemma for each shared operation, and one for `exec`. -/

namespace Sys2Proof.Machine

variable (s : State)

theorem State.finish_eq (b : Block s.N) : s.finish b = .next { s with block := b.complete } := rfl

theorem State.raise_eq (e : Error) : s.raise e = .next { s with block := s.block.afterError e } := rfl

/-- LDN raises WIDTH_TOO_SMALL or writes its register. -/
theorem loadNative_cases (k : Nat) (signed : Bool) (rd : Reg) (din : Din) :
    s.N < k ∧ loadNative k signed rd din s = s.raise .widthTooSmall ∨
    k ≤ s.N ∧ loadNative k signed rd din s =
      s.finish (s.block.setReg rd (ofCells s.N (nativeCells s.N k signed din))) := by
  rcases Nat.lt_or_ge s.N k with h | h
  · exact .inl ⟨h, by simp [loadNative, h]⟩
  · exact .inr ⟨h, by simp [loadNative, Nat.not_lt.mpr h]⟩

/-- What a command may do to a block: take an error, or write the one thing it writes and complete. -/
inductive Ends (i : Instr) (s : State) : Result → Prop where
  | raise (e : Error) : Ends i s (s.raise e)
  | reg (rd : Reg) (v : Value s.N) (h : i.dest = some rd) : Ends i s (s.finish (s.block.setReg rd v))
  | flag (v : Bool) (h : i.writesF = true) : Ends i s (s.finish (s.block.setF v))
  | byte (v : Byte) (h : i.writesBR = true) : Ends i s (s.finish (s.block.setBr v))

/-- An LDN ends in one of these ways. -/
theorem loadNative_ends (i : Instr) (k : Nat) (signed : Bool) (rd : Reg) (din : Din)
    (h : i.dest = some rd) : Ends i s (loadNative k signed rd din s) := by
  rcases loadNative_cases s k signed rd din with ⟨_, he⟩ | ⟨_, he⟩
  · rw [he]; exact .raise _
  · rw [he]; exact .reg rd _ h

/-- Every command ends in one of these ways. -/
theorem exec_ends (i : Instr) : Ends i s (exec i s) := by
  cases i
  case getb rs1 idx =>
    simp only [exec, execGetb]
    split
    · exact .raise _
    · exact .byte _ rfl
  case setb rd idx imm8 =>
    simp only [exec, execSetb]
    split
    · exact .raise _
    · exact .reg rd _ rfl
  case shl rd rs1 rs2 =>
    simp only [exec, execShl]
    split
    · exact .raise _
    · exact .reg rd _ rfl
  case shr rd rs1 rs2 =>
    simp only [exec, execShr]
    split
    · exact .raise _
    · exact .reg rd _ rfl
  case div rd rs1 rs2 =>
    simp only [exec, execDiv]
    split
    · exact .raise _
    · exact .reg rd _ rfl
  case mod rd rs1 rs2 =>
    simp only [exec, execMod]
    split
    · exact .raise _
    · exact .reg rd _ rfl
  case ldnU8 rd v => exact loadNative_ends s _ _ _ rd v rfl
  case ldnU16 rd v => exact loadNative_ends s _ _ _ rd v rfl
  case ldnU32 rd v => exact loadNative_ends s _ _ _ rd v rfl
  case ldnU64 rd v => exact loadNative_ends s _ _ _ rd v rfl
  case ldnS8 rd v => exact loadNative_ends s _ _ _ rd v rfl
  case ldnS16 rd v => exact loadNative_ends s _ _ _ rd v rfl
  case ldnS32 rd v => exact loadNative_ends s _ _ _ rd v rfl
  case ldnS64 rd v => exact loadNative_ends s _ _ _ rd v rfl
  case msb | msbns => exact .byte _ rfl
  case isneg | bool | eq | lt | le | gt | ge => exact .flag _ rfl
  all_goals exact .reg _ _ rfl

end Sys2Proof.Machine
end

