-- ==== Sys2Proof/Laws/PerInstr.lean ====
section
/-! SUPPORT. Facts about commands as syntax, one lemma a constructor. -/

namespace Sys2Proof.Laws

/-- Where a command does not read DIN, its DIN word is 0 (R96). -/
def EncodedDin.Statement (i : Instr) : Prop := i.readsDin = false → (encode i).2 = 0

theorem EncodedDin.msb (rs1 : Reg) : EncodedDin.Statement (.msb rs1) := fun _ => rfl
theorem EncodedDin.msbns (rs1 : Reg) : EncodedDin.Statement (.msbns rs1) := fun _ => rfl
theorem EncodedDin.isneg (rs1 : Reg) : EncodedDin.Statement (.isneg rs1) := fun _ => rfl
theorem EncodedDin.flips (rd : Reg) (rs1 : Reg) : EncodedDin.Statement (.flips rd rs1) := fun _ => rfl
theorem EncodedDin.getb (rs1 : Reg) (idx : Din) : EncodedDin.Statement (.getb rs1 idx) := fun h => nomatch h
theorem EncodedDin.setb (rd : Reg) (idx : Din) (imm8 : Byte) : EncodedDin.Statement (.setb rd idx imm8) := fun h => nomatch h
theorem EncodedDin.mov (rd : Reg) (rs1 : Reg) : EncodedDin.Statement (.mov rd rs1) := fun _ => rfl
theorem EncodedDin.not (rd : Reg) (rs1 : Reg) : EncodedDin.Statement (.not rd rs1) := fun _ => rfl
theorem EncodedDin.and (rd : Reg) (rs1 : Reg) (rs2 : Reg) : EncodedDin.Statement (.and rd rs1 rs2) := fun _ => rfl
theorem EncodedDin.or (rd : Reg) (rs1 : Reg) (rs2 : Reg) : EncodedDin.Statement (.or rd rs1 rs2) := fun _ => rfl
theorem EncodedDin.xor (rd : Reg) (rs1 : Reg) (rs2 : Reg) : EncodedDin.Statement (.xor rd rs1 rs2) := fun _ => rfl
theorem EncodedDin.shl1 (rd : Reg) (rs1 : Reg) : EncodedDin.Statement (.shl1 rd rs1) := fun _ => rfl
theorem EncodedDin.shr1 (rd : Reg) (rs1 : Reg) : EncodedDin.Statement (.shr1 rd rs1) := fun _ => rfl
theorem EncodedDin.shl (rd : Reg) (rs1 : Reg) (rs2 : Reg) : EncodedDin.Statement (.shl rd rs1 rs2) := fun _ => rfl
theorem EncodedDin.shr (rd : Reg) (rs1 : Reg) (rs2 : Reg) : EncodedDin.Statement (.shr rd rs1 rs2) := fun _ => rfl
theorem EncodedDin.inc (rd : Reg) (rs1 : Reg) : EncodedDin.Statement (.inc rd rs1) := fun _ => rfl
theorem EncodedDin.dec (rd : Reg) (rs1 : Reg) : EncodedDin.Statement (.dec rd rs1) := fun _ => rfl
theorem EncodedDin.neg (rd : Reg) (rs1 : Reg) : EncodedDin.Statement (.neg rd rs1) := fun _ => rfl
theorem EncodedDin.add (rd : Reg) (rs1 : Reg) (rs2 : Reg) : EncodedDin.Statement (.add rd rs1 rs2) := fun _ => rfl
theorem EncodedDin.sub (rd : Reg) (rs1 : Reg) (rs2 : Reg) : EncodedDin.Statement (.sub rd rs1 rs2) := fun _ => rfl
theorem EncodedDin.mul (rd : Reg) (rs1 : Reg) (rs2 : Reg) : EncodedDin.Statement (.mul rd rs1 rs2) := fun _ => rfl
theorem EncodedDin.div (rd : Reg) (rs1 : Reg) (rs2 : Reg) : EncodedDin.Statement (.div rd rs1 rs2) := fun _ => rfl
theorem EncodedDin.mod (rd : Reg) (rs1 : Reg) (rs2 : Reg) : EncodedDin.Statement (.mod rd rs1 rs2) := fun _ => rfl
theorem EncodedDin.eq (rs1 : Reg) (rs2 : Reg) : EncodedDin.Statement (.eq rs1 rs2) := fun _ => rfl
theorem EncodedDin.lt (rs1 : Reg) (rs2 : Reg) : EncodedDin.Statement (.lt rs1 rs2) := fun _ => rfl
theorem EncodedDin.le (rs1 : Reg) (rs2 : Reg) : EncodedDin.Statement (.le rs1 rs2) := fun _ => rfl
theorem EncodedDin.gt (rs1 : Reg) (rs2 : Reg) : EncodedDin.Statement (.gt rs1 rs2) := fun _ => rfl
theorem EncodedDin.ge (rs1 : Reg) (rs2 : Reg) : EncodedDin.Statement (.ge rs1 rs2) := fun _ => rfl
theorem EncodedDin.zero (rd : Reg) : EncodedDin.Statement (.zero rd) := fun _ => rfl
theorem EncodedDin.one (rd : Reg) : EncodedDin.Statement (.one rd) := fun _ => rfl
theorem EncodedDin.ldnU8 (rd : Reg) (value : Din) : EncodedDin.Statement (.ldnU8 rd value) := fun h => nomatch h
theorem EncodedDin.ldnU16 (rd : Reg) (value : Din) : EncodedDin.Statement (.ldnU16 rd value) := fun h => nomatch h
theorem EncodedDin.ldnU32 (rd : Reg) (value : Din) : EncodedDin.Statement (.ldnU32 rd value) := fun h => nomatch h
theorem EncodedDin.ldnU64 (rd : Reg) (value : Din) : EncodedDin.Statement (.ldnU64 rd value) := fun h => nomatch h
theorem EncodedDin.ldnS8 (rd : Reg) (value : Din) : EncodedDin.Statement (.ldnS8 rd value) := fun h => nomatch h
theorem EncodedDin.ldnS16 (rd : Reg) (value : Din) : EncodedDin.Statement (.ldnS16 rd value) := fun h => nomatch h
theorem EncodedDin.ldnS32 (rd : Reg) (value : Din) : EncodedDin.Statement (.ldnS32 rd value) := fun h => nomatch h
theorem EncodedDin.ldnS64 (rd : Reg) (value : Din) : EncodedDin.Statement (.ldnS64 rd value) := fun h => nomatch h
theorem EncodedDin.bool (rs1 : Reg) : EncodedDin.Statement (.bool rs1) := fun _ => rfl

end Sys2Proof.Laws
end

