-- ==== Sys2Proof/Laws/Port.lean ====
section
/-! SUPPORT. What a step can do: one lemma each for `runCommand`, `takeEvent` and `step`. -/

namespace Sys2Proof.Machine

/-- An issued word runs the command it decodes to, or raises ILLEGAL_COMMAND. -/
theorem runCommand_cases (cmd : Cmd) (din : Din) (s : State) :
    (∃ i, decode cmd din = .ok i ∧ runCommand cmd din s = exec i s) ∨
    (∃ e, decode cmd din = .error e ∧ runCommand cmd din s = s.raise .illegalCommand) := by
  cases h : decode cmd din with
  | ok i => exact .inl ⟨i, rfl, by simp [runCommand, h]⟩
  | error e => exact .inr ⟨e, rfl, by simp [runCommand, h]⟩

/-- A host event, where it answers a next state: a command at READY = 1, or a level of RESET. -/
theorem takeEvent_cases (e : HostEvent) (s t : State) (h : takeEvent e s = .next t) :
    (∃ cmd din, e = .issue cmd din ∧ s.ready = true ∧ runCommand cmd din s = .next t) ∨
    (∃ cmd din, e = .issueThenReset cmd din ∧ s.ready = true ∧ t = s.resetRises) ∨
    (e = .reset true ∧ t = s.resetRises) ∨ (e = .reset false ∧ t = s.resetFalls) := by
  cases e with
  | issue cmd din =>
    cases hr : s.ready <;> simp [takeEvent, hr] at h
    exact .inl ⟨cmd, din, rfl, rfl, h⟩
  | issueThenReset cmd din =>
    cases hr : s.ready <;> simp [takeEvent, hr] at h
    exact .inr (.inl ⟨cmd, din, rfl, rfl, h.symm⟩)
  | reset level =>
    cases level <;> simp [takeEvent] at h
    · exact .inr (.inr (.inr ⟨rfl, h.symm⟩))
    · exact .inr (.inr (.inl ⟨rfl, h.symm⟩))

/-- A step, where it answers a next state: the block waits, or takes the oldest event. -/
theorem step_cases (s t : State) (h : step s = .next t) :
    s.N ≠ 0 ∧ s.block.st.code.toNat ≤ 5 ∧
    (s.port = [] ∧ t = s ∨
      ∃ e rest, s.port = e :: rest ∧ takeEvent e { s with port := rest } = .next t) := by
  unfold step tick at h
  split at h
  · cases h
  split at h
  · cases h
  rename_i hN hc
  refine ⟨hN, Nat.not_lt.mp hc, ?_⟩
  split at h
  · rename_i hp
    cases h
    exact .inl ⟨hp, rfl⟩
  · rename_i e rest hp
    exact .inr ⟨e, rest, hp, h⟩

/-- The step of a state of the spec, by its oldest event. -/
theorem step_event (s : State) (e : HostEvent) (rest : List HostEvent) (hN : s.N ≠ 0)
    (hc : s.block.st.code.toNat ≤ 5) (hp : s.port = e :: rest) :
    step s = takeEvent e { s with port := rest } := by
  simp [step, tick, hN, Nat.not_lt.mpr hc, hp]

end Sys2Proof.Machine
end

