-- ==== Sys2Proof/Tests/Slice0.lean ====
section
/-! SUPPORT. The model's own tests: the smoke test of well-formedness, every command's word written out field
by field from R82, R84 and R88, the vectors of 95_test_vectors.md (one or two a command, each one step), and
a witness for the hypotheses of each statement. -/

namespace Sys2Proof.Tests

open Sys2Proof.Machine Sys2Proof.Claims

/-! ## Well-formedness: each check refuses an ill-formed term (R96) -/

theorem test_wf_ldnU8 : (Instr.ldnU8 7 0x100).wellFormed = false := by decide
theorem test_wf_ldnU16 : (Instr.ldnU16 7 0x10000).wellFormed = false := by decide
theorem test_wf_ldnU32 : (Instr.ldnU32 7 0x100000000).wellFormed = false := by decide
theorem test_wf_ldnS8 : (Instr.ldnS8 7 0x1234).wellFormed = false := by decide
theorem test_wf_ldnS16 : (Instr.ldnS16 7 0x8000).wellFormed = false := by decide
theorem test_wf_ldnS32 : (Instr.ldnS32 7 0x80000000).wellFormed = false := by decide
theorem test_wf_accepts : (Instr.ldnS8 7 0xFFFFFFFFFFFFFFFD).wellFormed = true := by decide

/-! ## Decoding: op, rd, rs1, rs2 and aux written out from R82 and R88 -/

theorem test_decode_msb :
    decode (0b000001#6 ++ 0b0000#4 ++ 0b1001#4 ++ 0b0000#4 ++ 0b00000000000000#14) 0 = .ok (.msb 9) := by rfl
theorem test_decode_msbns :
    decode (0b000010#6 ++ 0b0000#4 ++ 0b1001#4 ++ 0b0000#4 ++ 0b00000000000000#14) 0 = .ok (.msbns 9) := by rfl
theorem test_decode_isneg :
    decode (0b000011#6 ++ 0b0000#4 ++ 0b1001#4 ++ 0b0000#4 ++ 0b00000000000000#14) 0 = .ok (.isneg 9) := by rfl
theorem test_decode_flips :
    decode (0b000100#6 ++ 0b0110#4 ++ 0b1001#4 ++ 0b0000#4 ++ 0b00000000000000#14) 0 = .ok (.flips 6 9) := by rfl
theorem test_decode_getb :
    decode (0b000101#6 ++ 0b0000#4 ++ 0b1001#4 ++ 0b0000#4 ++ 0b00000000000000#14) 5 = .ok (.getb 9 5) := by rfl
theorem test_decode_setb :
    decode (0b000110#6 ++ 0b0110#4 ++ 0b0000#4 ++ 0b0000#4 ++ 0b00000010100101#14) 5 = .ok (.setb 6 5 0xA5) := by rfl
theorem test_decode_mov :
    decode (0b000111#6 ++ 0b0110#4 ++ 0b1001#4 ++ 0b0000#4 ++ 0b00000000000000#14) 0 = .ok (.mov 6 9) := by rfl
theorem test_decode_not :
    decode (0b001000#6 ++ 0b0110#4 ++ 0b1001#4 ++ 0b0000#4 ++ 0b00000000000000#14) 0 = .ok (.not 6 9) := by rfl
theorem test_decode_and :
    decode (0b001001#6 ++ 0b0110#4 ++ 0b1001#4 ++ 0b1100#4 ++ 0b00000000000000#14) 0 = .ok (.and 6 9 12) := by rfl
theorem test_decode_or :
    decode (0b001010#6 ++ 0b0110#4 ++ 0b1001#4 ++ 0b1100#4 ++ 0b00000000000000#14) 0 = .ok (.or 6 9 12) := by rfl
theorem test_decode_xor :
    decode (0b001011#6 ++ 0b0110#4 ++ 0b1001#4 ++ 0b1100#4 ++ 0b00000000000000#14) 0 = .ok (.xor 6 9 12) := by rfl
theorem test_decode_shl1 :
    decode (0b001100#6 ++ 0b0110#4 ++ 0b1001#4 ++ 0b0000#4 ++ 0b00000000000000#14) 0 = .ok (.shl1 6 9) := by rfl
theorem test_decode_shr1 :
    decode (0b001101#6 ++ 0b0110#4 ++ 0b1001#4 ++ 0b0000#4 ++ 0b00000000000000#14) 0 = .ok (.shr1 6 9) := by rfl
theorem test_decode_shl :
    decode (0b001110#6 ++ 0b0110#4 ++ 0b1001#4 ++ 0b1100#4 ++ 0b00000000000000#14) 0 = .ok (.shl 6 9 12) := by rfl
theorem test_decode_shr :
    decode (0b001111#6 ++ 0b0110#4 ++ 0b1001#4 ++ 0b1100#4 ++ 0b00000000000000#14) 0 = .ok (.shr 6 9 12) := by rfl
theorem test_decode_inc :
    decode (0b010000#6 ++ 0b0110#4 ++ 0b1001#4 ++ 0b0000#4 ++ 0b00000000000000#14) 0 = .ok (.inc 6 9) := by rfl
theorem test_decode_dec :
    decode (0b010001#6 ++ 0b0110#4 ++ 0b1001#4 ++ 0b0000#4 ++ 0b00000000000000#14) 0 = .ok (.dec 6 9) := by rfl
theorem test_decode_neg :
    decode (0b010010#6 ++ 0b0110#4 ++ 0b1001#4 ++ 0b0000#4 ++ 0b00000000000000#14) 0 = .ok (.neg 6 9) := by rfl
theorem test_decode_add :
    decode (0b010011#6 ++ 0b0110#4 ++ 0b1001#4 ++ 0b1100#4 ++ 0b00000000000000#14) 0 = .ok (.add 6 9 12) := by rfl
theorem test_decode_sub :
    decode (0b010100#6 ++ 0b0110#4 ++ 0b1001#4 ++ 0b1100#4 ++ 0b00000000000000#14) 0 = .ok (.sub 6 9 12) := by rfl
theorem test_decode_mul :
    decode (0b010101#6 ++ 0b0110#4 ++ 0b1001#4 ++ 0b1100#4 ++ 0b00000000000000#14) 0 = .ok (.mul 6 9 12) := by rfl
theorem test_decode_div :
    decode (0b010110#6 ++ 0b0110#4 ++ 0b1001#4 ++ 0b1100#4 ++ 0b00000000000000#14) 0 = .ok (.div 6 9 12) := by rfl
theorem test_decode_mod :
    decode (0b010111#6 ++ 0b0110#4 ++ 0b1001#4 ++ 0b1100#4 ++ 0b00000000000000#14) 0 = .ok (.mod 6 9 12) := by rfl
theorem test_decode_eq :
    decode (0b011000#6 ++ 0b0000#4 ++ 0b1001#4 ++ 0b1100#4 ++ 0b00000000000000#14) 0 = .ok (.eq 9 12) := by rfl
theorem test_decode_lt :
    decode (0b011001#6 ++ 0b0000#4 ++ 0b1001#4 ++ 0b1100#4 ++ 0b00000000000000#14) 0 = .ok (.lt 9 12) := by rfl
theorem test_decode_le :
    decode (0b011010#6 ++ 0b0000#4 ++ 0b1001#4 ++ 0b1100#4 ++ 0b00000000000000#14) 0 = .ok (.le 9 12) := by rfl
theorem test_decode_gt :
    decode (0b011011#6 ++ 0b0000#4 ++ 0b1001#4 ++ 0b1100#4 ++ 0b00000000000000#14) 0 = .ok (.gt 9 12) := by rfl
theorem test_decode_ge :
    decode (0b011100#6 ++ 0b0000#4 ++ 0b1001#4 ++ 0b1100#4 ++ 0b00000000000000#14) 0 = .ok (.ge 9 12) := by rfl
theorem test_decode_zero :
    decode (0b100000#6 ++ 0b0110#4 ++ 0b0000#4 ++ 0b0000#4 ++ 0b00000000000000#14) 0 = .ok (.zero 6) := by rfl
theorem test_decode_one :
    decode (0b100001#6 ++ 0b0110#4 ++ 0b0000#4 ++ 0b0000#4 ++ 0b00000000000000#14) 0 = .ok (.one 6) := by rfl
theorem test_decode_bool :
    decode (0b100011#6 ++ 0b0000#4 ++ 0b1001#4 ++ 0b0000#4 ++ 0b00000000000000#14) 0 = .ok (.bool 9) := by rfl
theorem test_decode_ldnU8 :
    decode (0b100010#6 ++ 0b0110#4 ++ 0b0000#4 ++ 0b0000#4 ++ 0b00000000000000#14) 5 = .ok (.ldnU8 6 5) := by rfl
theorem test_decode_ldnU16 :
    decode (0b100010#6 ++ 0b0110#4 ++ 0b0000#4 ++ 0b0000#4 ++ 0b00000000000001#14) 5 = .ok (.ldnU16 6 5) := by rfl
theorem test_decode_ldnU32 :
    decode (0b100010#6 ++ 0b0110#4 ++ 0b0000#4 ++ 0b0000#4 ++ 0b00000000000010#14) 5 = .ok (.ldnU32 6 5) := by rfl
theorem test_decode_ldnU64 :
    decode (0b100010#6 ++ 0b0110#4 ++ 0b0000#4 ++ 0b0000#4 ++ 0b00000000000011#14) 5 = .ok (.ldnU64 6 5) := by rfl
theorem test_decode_ldnS8 :
    decode (0b100010#6 ++ 0b0110#4 ++ 0b0000#4 ++ 0b0000#4 ++ 0b00000000000100#14) 5 = .ok (.ldnS8 6 5) := by rfl
theorem test_decode_ldnS16 :
    decode (0b100010#6 ++ 0b0110#4 ++ 0b0000#4 ++ 0b0000#4 ++ 0b00000000000101#14) 5 = .ok (.ldnS16 6 5) := by rfl
theorem test_decode_ldnS32 :
    decode (0b100010#6 ++ 0b0110#4 ++ 0b0000#4 ++ 0b0000#4 ++ 0b00000000000110#14) 5 = .ok (.ldnS32 6 5) := by rfl
theorem test_decode_ldnS64 :
    decode (0b100010#6 ++ 0b0110#4 ++ 0b0000#4 ++ 0b0000#4 ++ 0b00000000000111#14) 5 = .ok (.ldnS64 6 5) := by rfl
theorem test_decode_reserved : decode 0x90000000 0 = .error .reservedOpcode := by rfl
theorem test_decode_must_be_zero : decode 0x1C444000 0 = .error .mustBeZero := by rfl

/-! ## One step each: the vectors of 95_test_vectors.md -/

/-- A block of width N with these registers. -/
def start (N : Nat) (regs : List (Reg × Nat)) : State :=
  regs.foldl (fun s r => { s with block := s.block.setReg r.1 (BitVec.ofNat _ r.2) }) (State.resetOf N)

/-- The step that runs this word with this DIN. -/
def issued (s : State) (cmd : Cmd) (din : Din) : Result := step (s.withCommand cmd din)

/-- Register r and ST afterwards. -/
def regSt (r : Reg) : Result → Option (Nat × Nat)
  | .next t => some ((t.block.reg r).toNat, t.block.st.byte.toNat)
  | _ => none

/-- F, BR and ST afterwards. -/
def outputsAfter : Result → Option Outputs
  | .next t => t.outputs
  | _ => none

-- section 2.1
theorem test_reserved_word :
    outputsAfter (issued (start 2 []) 0x74000000 0) = some ⟨false, 0, 0x0A⟩ := by decide
theorem test_mbz_before_width :
    regSt 7 (issued (start 2 []) 0x89C0000E 5) = some (0, 0x0A) := by decide
-- section 2.2
theorem test_msb :
    outputsAfter (issued (start 2 [(1, 0x8012)]) 0x04040000 0) = some ⟨false, 0x80, 0⟩ := by decide
theorem test_msb_width1 :
    outputsAfter (issued (start 1 [(1, 0xC3)]) 0x04040000 0) = some ⟨false, 0xC3, 0⟩ := by decide
theorem test_msbns :
    outputsAfter (issued (start 2 [(1, 0xFF34)]) 0x08040000 0) = some ⟨false, 0x7F, 0⟩ := by decide
theorem test_msbns_width1 :
    outputsAfter (issued (start 1 [(1, 0x85)]) 0x08040000 0) = some ⟨false, 0x05, 0⟩ := by decide
theorem test_isneg_min :
    outputsAfter (issued (start 2 [(1, 0x8000)]) 0x0C040000 0) = some ⟨true, 0, 0⟩ := by decide
theorem test_isneg_max :
    outputsAfter (issued (start 2 [(1, 0x7FFF)]) 0x0C040000 0) = some ⟨false, 0, 0⟩ := by decide
theorem test_flips_zero :
    regSt 2 (issued (start 2 []) 0x10880000 0) = some (0x8000, 0) := by decide
theorem test_flips :
    regSt 3 (issued (start 2 [(1, 0x1234)]) 0x10C40000 0) = some (0x9234, 0) := by decide
theorem test_mov :
    regSt 3 (issued (start 2 [(1, 0x1234)]) 0x1CC40000 0) = some (0x1234, 0) := by decide
theorem test_getb_top :
    outputsAfter (issued (start 2 [(1, 0x8012)]) 0x14040000 1) = some ⟨false, 0x80, 0⟩ := by decide
theorem test_getb_range :
    outputsAfter (issued (start 2 [(1, 0x8012)]) 0x14040000 0xFFFFFFFFFFFFFFFF) = some ⟨false, 0, 0x0C⟩ := by decide
theorem test_setb :
    regSt 4 (issued (start 3 [(4, 0x000001)]) 0x19000080 2) = some (0x800001, 0) := by decide
theorem test_setb_range :
    regSt 4 (issued (start 2 [(4, 0x1234)]) 0x1900007F 2) = some (0x1234, 0x0C) := by decide
-- section 2.3
theorem test_not :
    regSt 2 (issued (start 2 [(1, 0x00FF)]) 0x20840000 0) = some (0xFF00, 0) := by decide
theorem test_and :
    regSt 3 (issued (start 2 [(1, 0x0F0F), (2, 0x00FF)]) 0x24C48000 0) = some (0x000F, 0) := by decide
theorem test_or :
    regSt 3 (issued (start 2 [(1, 0x0F0F), (2, 0x00FF)]) 0x28C48000 0) = some (0x0FFF, 0) := by decide
theorem test_xor :
    regSt 3 (issued (start 2 [(1, 0x0F0F), (2, 0x00FF)]) 0x2CC48000 0) = some (0x0FF0, 0) := by decide
theorem test_shl1 :
    regSt 1 (issued (start 3 [(1, 0x008080)]) 0x30440000 0) = some (0x010100, 0) := by decide
theorem test_shl1_lost_bit :
    regSt 1 (issued (start 2 [(1, 0x8000)]) 0x30440000 0) = some (0, 0) := by decide
theorem test_shr1 :
    regSt 1 (issued (start 3 [(1, 0x010100)]) 0x34440000 0) = some (0x008080, 0) := by decide
theorem test_shr1_logical :
    regSt 1 (issued (start 2 [(1, 0x8000)]) 0x34440000 0) = some (0x4000, 0) := by decide
theorem test_shl_aliased :
    regSt 1 (issued (start 2 [(1, 3)]) 0x38444000 0) = some (0x0018, 0) := by decide
theorem test_shl_negative :
    regSt 3 (issued (start 2 [(1, 1), (2, 0xFFFF)]) 0x38C48000 0) = some (0, 0x0B) := by decide
theorem test_shr :
    regSt 3 (issued (start 2 [(1, 0xFFF0), (2, 4)]) 0x3CC48000 0) = some (0x0FFF, 0) := by decide
theorem test_shr_max_amount :
    regSt 3 (issued (start 2 [(1, 0xFFFF), (2, 0x7FFF)]) 0x3CC48000 0) = some (0, 0) := by decide
-- section 2.4
theorem test_inc :
    regSt 2 (issued (start 3 [(1, 0x00FFFF)]) 0x40840000 0) = some (0x010000, 0) := by decide
theorem test_inc_wraps :
    regSt 1 (issued (start 2 [(1, 0xFFFF)]) 0x40440000 0) = some (0, 0) := by decide
theorem test_dec :
    regSt 1 (issued (start 2 [(1, 0x0100)]) 0x44440000 0) = some (0x00FF, 0) := by decide
theorem test_dec_wraps :
    regSt 1 (issued (start 2 []) 0x44440000 0) = some (0xFFFF, 0) := by decide
theorem test_neg :
    regSt 1 (issued (start 2 [(1, 0x0100)]) 0x48440000 0) = some (0xFF00, 0) := by decide
theorem test_neg_min :
    regSt 1 (issued (start 1 [(1, 0x80)]) 0x48440000 0) = some (0x80, 0) := by decide
theorem test_add_two_carries :
    regSt 3 (issued (start 2 [(1, 0x80FF), (2, 0x8001)]) 0x4CC48000 0) = some (0x0100, 0) := by decide
theorem test_add_aliased :
    regSt 1 (issued (start 2 [(1, 0x1234)]) 0x4C444000 0) = some (0x2468, 0) := by decide
theorem test_sub :
    regSt 3 (issued (start 2 [(1, 0xFFFD), (2, 0xFFFE)]) 0x50C48000 0) = some (0xFFFF, 0) := by decide
theorem test_sub_min :
    regSt 3 (issued (start 2 [(2, 0x8000)]) 0x50C08000 0) = some (0x8000, 0) := by decide
theorem test_mul_negative :
    regSt 3 (issued (start 2 [(1, 4), (2, 0xFFFD)]) 0x54C48000 0) = some (0xFFF4, 0) := by decide
theorem test_mul_min_odd :
    regSt 3 (issued (start 2 [(1, 3), (2, 0x8000)]) 0x54C48000 0) = some (0x8000, 0) := by decide
theorem test_div_zero :
    regSt 3 (issued (start 2 [(1, 7), (3, 0x5555)]) 0x58C40000 0) = some (0x5555, 0x09) := by decide
theorem test_div :
    regSt 3 (issued (start 2 [(1, 7), (2, 2)]) 0x58C48000 0) = some ((Config.divFn 2 7 2).toNat, 0) := by rfl
theorem test_mod_zero :
    regSt 3 (issued (start 2 [(1, 7), (3, 0x5555)]) 0x5CC40000 0) = some (0x5555, 0x09) := by decide
theorem test_mod :
    regSt 3 (issued (start 2 [(1, 0xFFF9), (2, 2)]) 0x5CC48000 0) =
      some ((Config.modFn 2 0xFFF9 2).toNat, 0) := by rfl
-- section 2.5
theorem test_eq :
    outputsAfter (issued (start 2 [(1, 0x1234), (2, 0x1234)]) 0x60048000 0) = some ⟨true, 0, 0⟩ := by decide
theorem test_eq_other_cell :
    outputsAfter (issued (start 2 [(1, 0x0100), (2, 1)]) 0x60048000 0) = some ⟨false, 0, 0⟩ := by decide
theorem test_lt_step2 :
    outputsAfter (issued (start 2 [(1, 0x8100), (2, 0x80FF)]) 0x64048000 0) = some ⟨false, 0, 0⟩ := by decide
theorem test_lt_step3 :
    outputsAfter (issued (start 3 [(1, 0xFF0001), (2, 0xFF0002)]) 0x64048000 0) = some ⟨true, 0, 0⟩ := by decide
theorem test_le_equal :
    outputsAfter (issued (start 2 [(1, 3), (2, 3)]) 0x68048000 0) = some ⟨true, 0, 0⟩ := by decide
theorem test_le_greater :
    outputsAfter (issued (start 2 [(1, 3), (2, 2)]) 0x68048000 0) = some ⟨false, 0, 0⟩ := by decide
theorem test_gt :
    outputsAfter (issued (start 2 [(1, 3), (2, 2)]) 0x6C048000 0) = some ⟨true, 0, 0⟩ := by decide
theorem test_gt_negative :
    outputsAfter (issued (start 2 [(1, 0xFFFF)]) 0x6C048000 0) = some ⟨false, 0, 0⟩ := by decide
theorem test_ge_equal :
    outputsAfter (issued (start 2 [(1, 3), (2, 3)]) 0x70048000 0) = some ⟨true, 0, 0⟩ := by decide
theorem test_ge_min :
    outputsAfter (issued (start 2 [(1, 0x8000), (2, 0x7FFF)]) 0x70048000 0) = some ⟨false, 0, 0⟩ := by decide
-- section 2.6
theorem test_zero :
    regSt 5 (issued (start 2 [(5, 0x1234)]) 0x81400000 0) = some (0, 0) := by decide
theorem test_one :
    regSt 6 (issued (start 3 []) 0x85800000 0) = some (1, 0) := by decide
theorem test_ldnU8 :
    regSt 7 (issued (start 2 []) 0x89C00000 0xFF) = some (0x00FF, 0) := by decide
theorem test_ldnU16 :
    regSt 7 (issued (start 3 []) 0x89C00001 0x8000) = some (0x008000, 0) := by decide
theorem test_ldnU32_narrow :
    regSt 7 (issued (start 2 [(7, 0x1234)]) 0x89C00002 5) = some (0x1234, 0x0D) := by decide
theorem test_ldnU64 :
    regSt 7 (issued (start 16 []) 0x89C00003 0xFFFFFFFFFFFFFFFF) = some (0xFFFFFFFFFFFFFFFF, 0) := by decide
theorem test_ldnS8 :
    regSt 7 (issued (start 2 []) 0x89C00004 0xFFFFFFFFFFFFFFFD) = some (0xFFFD, 0) := by decide
theorem test_ldnS8_raw :
    regSt 7 (issued (start 2 []) 0x89C00004 0x1234) = some (0x0034, 0) := by decide
theorem test_ldnS16 :
    regSt 7 (issued (start 3 []) 0x89C00005 0xFFFFFFFFFFFFFFFE) = some (0xFFFFFE, 0) := by decide
theorem test_ldnS32_narrow :
    regSt 7 (issued (start 2 [(7, 0x1234)]) 0x89C00006 5) = some (0x1234, 0x0D) := by decide
theorem test_ldnS64 :
    regSt 7 (issued (start 16 []) 0x89C00007 0xFFFFFFFFFFFFFFFF) = some (0xFFFFFFFFFFFFFFFFFFFFFFFFFFFFFFFF, 0) := by decide
theorem test_bool :
    outputsAfter (issued (start 2 [(1, 0x0100)]) 0x8C040000 0) = some ⟨true, 0, 0⟩ := by decide
theorem test_bool_zero :
    outputsAfter (issued (start 2 []) 0x8C000000 0) = some ⟨false, 0, 0⟩ := by decide

/-- A whole host run: section 2.7, steps 1 and 2, STICKY kept by the command after an error. -/
theorem test_sticky_stays :
    (observe [(0x38C48000, 0), (0x4CC44000, 0)] (start 2 [(1, 1), (2, 0xFFFF)])).map
      (fun r => r.2.map (·.st)) = some [0x0B, 0x08] := by decide

/-- Section 2.7, step 8: when RESET falls, the registers and ST hold their reset values. -/
theorem test_reset_falls :
    regSt 1 (step { start 2 [(1, 1)] with ready := false, port := [.reset false] }) = some (0, 0) := by
  decide

/-! ## The assembler, with the lines of 95_test_vectors.md -/

theorem test_asm_setb : (assembleLine 2 "setb x4, 1, 0x7f".toList).map (·.map encode) =
    some [(0x1900007F, 1)] := by decide
theorem test_asm_ldn : (assembleLine 2 "ldn.s8 x1, -128 ; MIN".toList).map (·.map encode) =
    some [(0x88400004, 0xFFFFFFFFFFFFFF80)] := by decide
theorem test_asm_rejects : assembleLine 2 "ldn.s8 x7, 0x1234".toList = none := by decide
theorem test_asm_no_ne : assembleLine 2 "ne x1, x2".toList = none := by decide
theorem test_asm_max : (assembleLine 8 "max x2".toList).map (·.map (fun i => (encode i).1)) =
    some [0x80800000, 0x10880000, 0x20880000] := by decide
theorem test_disassembles_illegal : disassemble 0x00000000 0 = ".word 0x00000000".toList := by decide
theorem test_disassembles_shr : disassemble 0x3C848000 0 = "shr x2, x1, x2".toList := by decide

/-! ## The host's questions: the first command after reset -/

theorem test_table_word : decodeTableWord 32 0x88000007 = some (.ldnS64 0 0) := by decide
theorem test_fetch_word : regSt 6 (step (State.reset.withFetchWord 32 0x85800000)) = some (1, 0) := by decide

/-! ## Witnesses: a concrete case meets all the hypotheses of each statement, clause by clause -/

/-- A legal state at width 2: x1 = 1, x2 = -1, x3 = 16; after an error if `sticky`. -/
def wit (ready sticky : Bool) (port : List HostEvent) : State :=
  let s := start 2 [(1, 1), (2, 0xFFFF), (3, 0x0010)]
  { s with block := { s.block with st := ⟨if sticky then 5 else 0, sticky⟩ }, ready := ready, port := port }

theorem wit_legal (ready sticky : Bool) (port : List HostEvent) : (wit ready sticky port).Legal := by
  cases sticky
  · exact ⟨(by decide : 0 < 2), (by decide : (0 : BitVec 3).toNat ≤ 5), fun h => absurd rfl h⟩
  · exact ⟨(by decide : 0 < 2), (by decide : (5 : BitVec 3).toNat ≤ 5), fun _ => rfl⟩

theorem wit_issued (sticky : Bool) (cmd : Cmd) (din : Din) :
    Issued (wit true sticky [.issue cmd din]) cmd din [] :=
  ⟨wit_legal _ _ _, rfl, rfl⟩

theorem witness_StepRunsDecodedCommand :
    ∃ s cmd din rest i, Issued s cmd din rest ∧ decode cmd din = .ok i :=
  ⟨_, 0x4CC44000, 0, _, _, wit_issued true _ _, rfl⟩

theorem witness_ReservedOpcodesAreIllegal_low :
    ∃ s cmd din rest, Issued s cmd din rest ∧ cmd.extractLsb' 26 6 ∈ [0x00, 0x1D, 0x1E, 0x1F] :=
  ⟨_, 0x7C000000, 0, _, wit_issued false _ _, by decide⟩

theorem witness_ReservedOpcodesAreIllegal_high :
    ∃ s cmd din rest, Issued s cmd din rest ∧ 0x24 ≤ (cmd.extractLsb' 26 6).toNat :=
  ⟨_, 0x90000000, 0, _, wit_issued false _ _, by decide⟩

theorem witness_ReservedOpcodesAreIllegal_words :
    ∃ s cmd din rest, Issued s cmd din rest ∧ (cmd = 0x00000000 ∨ cmd = 0xFFFFFFFF) :=
  ⟨_, 0xFFFFFFFF, 0, _, wit_issued false _ _, .inr rfl⟩

theorem witness_MustBeZeroBitsAreIllegal :
    ∃ s cmd din rest mbz, Issued s cmd din rest ∧ (cmd.extractLsb' 26 6, mbz) ∈ mbzOfOpcode ∧
      cmd &&& mbz ≠ 0 :=
  ⟨_, 0x89C00008, 5, _, 0x003FFFF8, wit_issued true _ _, by decide, by decide⟩

theorem witness_EncodeOfDecode_din : decode 0x1900007F 1 = .ok (.setb 4 1 0x7F) ∧
    (Instr.setb 4 1 0x7F).readsDin = true := ⟨rfl, rfl⟩
theorem witness_EncodeOfDecode_no_din : decode 0x8C040000 7 = .ok (.bool 1) ∧
    (Instr.bool 1).readsDin = false := ⟨rfl, rfl⟩

theorem witness_DinIsIgnored : (0x4CC48000 : Cmd).extractLsb' 26 6 ∉ [0x05, 0x06, 0x22] := by decide

theorem witness_ResetRestoresEverything :
    ∃ (s : State) (rest : List HostEvent), s.Legal ∧ s.port = .reset true :: .reset false :: rest :=
  ⟨wit true true [.reset true, .reset false], [], wit_legal _ _ _, rfl⟩

theorem witness_InterruptedCommandLeavesNothing :
    ∃ (s : State) (cmd : Cmd) (din : Din) (rest : List HostEvent), s.Legal ∧ s.ready = true ∧
      s.port = .issueThenReset cmd din :: .reset false :: rest :=
  ⟨wit true true [.issueThenReset 0x4CC48000 0, .reset false], _, _, [], wit_legal _ _ _, rfl, rfl⟩

theorem witness_IssueWhileNotReadyIsRefused_left :
    ∃ (s : State) (cmd : Cmd) (din : Din) (rest : List HostEvent), s.Legal ∧ s.ready = false ∧
      s.port = .issue cmd din :: rest :=
  ⟨wit false false [.issue 0x4CC48000 0], _, _, [], wit_legal _ _ _, rfl, rfl⟩

theorem witness_IssueWhileNotReadyIsRefused_right :
    ∃ (s : State) (cmd : Cmd) (din : Din) (rest : List HostEvent), s.Legal ∧ s.ready = false ∧
      s.port = .issueThenReset cmd din :: rest :=
  ⟨wit false false [.issueThenReset 0x4CC48000 0], _, _, [], wit_legal _ _ _, rfl, rfl⟩

theorem witness_OutputsShowTheRegisters :
    (wit true true []).ready = true ∧ (wit false true []).ready = false := ⟨rfl, rfl⟩

theorem witness_IdleBlockHoldsItsState : ∃ s : State, s.Legal ∧ s.port = [] :=
  ⟨wit true false [], wit_legal _ _ _, rfl⟩

theorem witness_StepKeepsLegalStates : ∃ s t : State, s.Legal ∧ step s = .next t ∧ s ≠ t :=
  ⟨wit true false [.issue 0x38C48000 0], _, wit_legal _ _ _, rfl, by decide⟩

theorem witness_StepKeepsTheWidth : ∃ s t : State, step s = .next t ∧ s ≠ t :=
  ⟨wit true false [.reset true], _, rfl, by decide⟩

theorem witness_EveryIssuedCommandCompletes : ∃ s cmd din rest, Issued s cmd din rest :=
  ⟨_, 0x00000000, 0, _, wit_issued true _ _⟩

theorem witness_ErrorsChangeOnlyStatus : ∃ (s : State) (cmd : Cmd) (din : Din) (b : Block s.N),
    runCommand cmd din s = .next { s with block := b } ∧ b.st.code ≠ 0 :=
  ⟨wit true false [], 0x38C48000, 0, _, rfl, by decide⟩

theorem witness_CommandsEndInTheirOwnCodes : ∃ cmd din e, decode cmd din = .error e :=
  ⟨0x04440000, 0, .mustBeZero, rfl⟩

theorem witness_FrameOfEveryCommand :
    (Instr.add 3 1 2).dest ≠ some 1 ∧ (Instr.add 3 1 2).writesF = false ∧
      (Instr.add 3 1 2).writesBR = false ∧
      ∃ b : Block 2, exec (.add 3 1 2) (wit true true []) = .next { wit true true [] with block := b } ∧
        b.st.code = 0 := ⟨by decide, rfl, rfl, _, rfl, rfl⟩

theorem witness_StickyClearedByReset : (wit false true []).ready = false := rfl

theorem witness_StickyZeroMeansEveryCommandCompleted :
    ∃ s : State, s.Legal ∧ s.ready = true ∧ s.block.st.sticky = false :=
  ⟨wit true false [], wit_legal _ _ _, rfl, rfl⟩

/-- Two blocks that differ in x7 alone. -/
def blockA : Block 2 := (start 2 [(1, 5)]).block
def blockB : Block 2 := (start 2 [(1, 5), (7, 1)]).block

theorem witness_CommandsDependOnlyOnTheirSources :
    ∃ (b c : Block 2) (b' : Block 2), b ≠ c ∧ (∀ r ∈ (Instr.add 3 1 2).sources, b.x[r] = c.x[r]) ∧
      exec (.add 3 1 2) ⟨2, b, true, []⟩ = .next ⟨2, b', true, []⟩ ∧ b'.st.code = 0 ∧
      (Instr.add 3 1 2).dest = some 3 :=
  ⟨blockA, blockB, _, by decide, by decide, rfl, rfl, rfl⟩

theorem witness_CommandsDependOnlyOnTheirSources_F_BR :
    (Instr.lt 1 2).writesF = true ∧ (Instr.msb 1).writesBR = true := ⟨rfl, rfl⟩

theorem witness_ReadOnlyCommandsRepeat : (Instr.getb 1 7).dest = none := rfl

/-- GETB and SETB: the last index that names a cell and the first that names none. -/
theorem witness_byte_index : (1 : Din).toNat < (wit true false []).N ∧
    (wit true false []).N ≤ (2 : Din).toNat ∧ (0 : Nat) < (wit true false []).N := by decide

/-- SHL and SHR: amounts -1, 1 and 16 = W. -/
theorem witness_shift_amounts : (val (wit true false []) 2).toInt < 0 ∧
    0 ≤ (val (wit true false []) 1).toInt ∧
    8 * ((wit true false []).N : Int) ≤ (val (wit true false []) 3).toInt := by decide

/-- DIV and MOD: a zero and a nonzero divisor. -/
theorem witness_divisors :
    (val (wit true false []) 0).toNat = 0 ∧ (val (wit true false []) 1).toNat ≠ 0 := by decide

/-- LDN: the widest native width that fits N = 2, and one that does not. -/
theorem witness_native_widths : 2 ≤ (wit true false []).N ∧ (wit true false []).N < 4 := by decide

/-- The row of each mask: the words of the decoding tests above; here one row's hypothesis itself. -/
theorem witness_rows : ∀ r ∈ opcodeRows, r.pattern &&& r.mask = r.pattern := by decide

theorem witness_LessThanIsATotalOrder :
    ltFn (0xFFFE : Value 2) 0xFFFF = true ∧ ltFn (0xFFFF : Value 2) 1 = true ∧
      (0xFFFF : Value 2).toInt < 0 ∧ 0 ≤ (1 : Value 2).toInt := by decide

theorem witness_NativeValuesRoundTrip :
    ∃ N k : Nat, 0 < k ∧ k ≤ N ∧ k ≤ 8 ∧ k < N := ⟨9, 8, by decide⟩
theorem witness_NativeValuesRoundTrip_full : ∃ N k : Nat, 0 < k ∧ k ≤ N ∧ k ≤ 8 ∧ k = N :=
  ⟨8, 8, by decide⟩

/-- `li` at N = 2: -129 and -32768 need two bytes and one byte is not enough; -128 fits one. -/
theorem witness_LoadImmediate_two_bytes : 2 ≤ (wit true false []).N ∧ FitsSigned 2 (-129) ∧
    FitsSigned 2 (-32768) ∧ ∀ j ∈ [1, 2, 4, 8], j < 2 → ¬FitsSigned j (-129) := by
  refine ⟨by decide, ⟨by decide, by decide⟩, ⟨by decide, by decide⟩, fun j hj h2 h => ?_⟩
  have hj1 : j = 1 := by simp at hj; omega
  subst hj1
  exact absurd h.1 (by decide)
theorem witness_LoadImmediate_one_byte : 1 ≤ (wit true false []).N ∧ FitsSigned 1 (-128) :=
  ⟨by decide, by decide, by decide⟩
theorem witness_LoadImmediate_rejected :
    ∀ k ∈ [1, 2, 4, 8], k ≤ (wit true false []).N → ¬FitsSigned k 32768 := by
  intro k hk hN h
  have hN' : k ≤ 2 := hN
  have hk' : k = 1 ∨ k = 2 := by simp at hk; omega
  rcases hk' with rfl | rfl
  · exact absurd h.2 (by decide)
  · exact absurd h.2 (by decide)

theorem witness_TableWordRunsNext : (wit false true []).Legal ∧
    decodeTableWord 32 0x4CC48000 = some (.add 3 1 2) := ⟨wit_legal _ _ _, by decide⟩

theorem witness_AssemblerReadsBackCommands : (Instr.ldnS8 7 0xFFFFFFFFFFFFFF80).wellFormed = true := by
  decide

theorem witness_DisassemblyOfEveryWord : decode 0x00000000 0 = .error .reservedOpcode ∧
    decode 0x3C848000 0 = .ok (.shr 2 1 2) := ⟨rfl, rfl⟩

end Sys2Proof.Tests
end

section
/-! PROOFS. The reset values of the state (R46), and what a command and RESET do to STICKY (R39). -/

namespace Sys2Proof.Machine

section ResetLaws

variable (N : Nat) (r : Reg) (s : State)

@[simp] theorem Block.reset_getElem : (Block.reset N).x[r] = 0 := by
  simp [Block.reset]
@[simp] theorem Block.reset_f : (Block.reset N).f = false := rfl
@[simp] theorem Block.reset_br : (Block.reset N).br = 0 := rfl
@[simp] theorem Block.reset_code : (Block.reset N).st.code = 0 := rfl
@[simp] theorem Block.reset_sticky : (Block.reset N).st.sticky = false := rfl

@[simp] theorem State.resetOf_N : (State.resetOf N).N = N := rfl
@[simp] theorem State.resetOf_block : (State.resetOf N).block = Block.reset N := rfl
@[simp] theorem State.resetOf_ready : (State.resetOf N).ready = true := rfl
@[simp] theorem State.resetOf_port : (State.resetOf N).port = [] := rfl

/-- ST reads 0x00 exactly if no error is on record: CODE and STICKY are its only stored bits (R37). -/
theorem Status.byte_eq_zero_iff (st : Status) : st.byte = 0x00 ↔ st.code = 0 ∧ st.sticky = false := by
  obtain ⟨code, sticky⟩ := st
  revert code sticky
  decide

/-- RESET falling in a block that RESET holds gives the reset state at its width (R250). -/
theorem State.resetFalls_of_not_ready (h : s.ready = false) :
    s.resetFalls = { State.resetOf s.N with port := s.port } := by
  simp [State.resetFalls, State.resetOf, h]

end ResetLaws

/-- From s the command answers a state that differs in the block alone, and STICKY there is the old
STICKY or an error's record (R39). -/
def RecordsErrors (s : State) (o : Result) : Prop :=
  ∃ b : Block s.N, o = .next { s with block := b } ∧
    b.st.sticky = (s.block.st.sticky || decide (b.st.code ≠ 0))

/-- Completion keeps STICKY and shows code 0, whatever was written, as long as that was not ST. -/
theorem State.finish_recordsErrors (s : State) (b : Block s.N) (hst : b.st = s.block.st) :
    RecordsErrors s (s.finish b) :=
  ⟨b.complete, s.finish_eq b, by simp [hst]⟩

/-- An error sets STICKY and shows a nonzero code. -/
theorem State.raise_recordsErrors (s : State) (e : Error) : RecordsErrors s (s.raise e) :=
  ⟨s.block.afterError e, s.raise_eq e, by
    rw [Block.afterError_sticky, Block.afterError_code, decide_eq_true e.code_ne_zero, Bool.or_true]⟩

theorem Ends.recordsErrors {i : Instr} {s : State} {o : Result} (h : Ends i s o) :
    RecordsErrors s o := by
  cases h with
  | raise e => exact s.raise_recordsErrors e
  | reg rd v _ => exact s.finish_recordsErrors _ (Block.setReg_st _ rd v)
  | flag v _ => exact s.finish_recordsErrors _ (Block.setF_st _ v)
  | byte v _ => exact s.finish_recordsErrors _ (Block.setBr_st _ v)

theorem runCommand_recordsErrors (cmd : Cmd) (din : Din) (s : State) :
    RecordsErrors s (runCommand cmd din s) := by
  rcases runCommand_cases cmd din s with ⟨i, _, hrun⟩ | ⟨_, _, hrun⟩
  · rw [hrun]; exact (exec_ends s i).recordsErrors
  · rw [hrun]; exact s.raise_recordsErrors .illegalCommand

end Sys2Proof.Machine

namespace Sys2Proof.Claims

open Sys2Proof.Machine

/-- Settles O23: every way a command ends records its errors in STICKY, and the reset state has none. -/
theorem stickyIsSetByErrorsAndClearedByReset : Obligations.StickyIsSetByErrorsAndClearedByReset := by
  unfold Obligations.StickyIsSetByErrorsAndClearedByReset
  refine ⟨fun s cmd din => runCommand_recordsErrors cmd din s, fun s hready => ?_⟩
  rw [s.resetFalls_of_not_ready hready]
  exact Block.reset_sticky s.N

/-- Settles O10, field by field. -/
theorem resetValues : Obligations.ResetValues := by
  unfold Obligations.ResetValues
  intro N
  have hst : (State.resetOf N).block.st.byte = 0x00 :=
    (Status.byte_eq_zero_iff _).mpr ⟨Block.reset_code N, Block.reset_sticky N⟩
  exact ⟨Block.reset_getElem N, Block.reset_f N, Block.reset_br N, hst, State.resetOf_ready N⟩

end Sys2Proof.Claims
end

section
/-! PROOFS. Decoding by the opcode map: what `decode` answers for a reserved and for an assigned opcode
(R89, R90, R94), and where it reads DIN (R81). -/

namespace Sys2Proof

variable {cmd : Cmd} {din : Din} {op : BitVec 6} {form : Form} {make : Fields → Instr} {i : Instr}

/-! ## The opcode map -/

/-- The 32 opcodes that R89 reserves are those the map does not assign. -/
theorem opcodeMap_eq_none_iff :
    opcodeMap op = none ↔ op ∈ [0x00, 0x1D, 0x1E, 0x1F] ∨ 0x24 ≤ op.toNat := by
  rw [← Option.isNone_iff_eq_none]
  revert op
  decide

/-- Where the opcode is not one of GETB, SETB and LDN, the command its fields make has no DIN in it. -/
theorem make_ignores_din (h : opcodeMap op = some (form, make)) (hop : op ∉ [0x05, 0x06, 0x22])
    (f : Fields) (din' : Din) : make { f with din := din' } = make f := by
  unfold opcodeMap at h
  split at h <;> cases h
  -- the entries of GETB, SETB and LDN
  case h_5 | h_6 | h_31 => simp at hop
  all_goals rfl

/-! ## The decoder -/

theorem decode_of_reserved (h : opcodeMap (opField cmd) = none) :
    decode cmd din = .error .reservedOpcode := by
  simp [decode, h]

theorem decode_of_assigned (h : opcodeMap (opField cmd) = some (form, make)) :
    decode cmd din =
      if cmd &&& form.mbz ≠ 0 then .error .mustBeZero else .ok (make (fields cmd din)) := by
  simp [decode, h]

/-- A word decodes to a command exactly if its opcode is assigned and no must-be-zero bit is set. -/
theorem decode_eq_ok_iff :
    decode cmd din = .ok i ↔ ∃ form make, opcodeMap (opField cmd) = some (form, make) ∧
      cmd &&& form.mbz = 0 ∧ make (fields cmd din) = i := by
  cases h : opcodeMap (opField cmd) with
  | none => simp [decode_of_reserved h]
  | some entry =>
    obtain ⟨form, make⟩ := entry
    rw [decode_of_assigned h]
    split
    next hz => simp [show ¬ cmd &&& form.mbz = 0#32 from hz]
    next hz => simp [show cmd &&& form.mbz = 0#32 from Decidable.not_not.mp hz]

/-- Outside GETB, SETB and LDN the decoded command is the same for every DIN. -/
theorem decode_ignores_din (hop : opField cmd ∉ [0x05, 0x06, 0x22]) (din din' : Din) :
    decode cmd din = decode cmd din' := by
  cases h : opcodeMap (opField cmd) with
  | none => rw [decode_of_reserved h, decode_of_reserved h]
  | some entry =>
    obtain ⟨form, make⟩ := entry
    have hmake : make (fields cmd din) = make (fields cmd din') :=
      make_ignores_din h hop (fields cmd din') din
    rw [decode_of_assigned h, decode_of_assigned h, hmake]

end Sys2Proof
end

section
/-! PROOFS. The opcode map and the table of masks say the same (R88, R91). -/

namespace Sys2Proof

variable {cmd : Cmd} {din : Din} {op : BitVec 6} {form : Form} {make : Fields → Instr} {i : Instr}

/-- `CMD[31:26]`, where every row's mask is 1. -/
def opMask : Cmd := 0xFC000000

/-- `CMD[2:0]`, S and wcode of LDN. -/
def variantMask : Cmd := 0x00000007

/-- The bits of `variantMask` as LDN's fields give them. -/
def variantBits (f : Fields) : Cmd := (0 : BitVec 29) ++ (BitVec.ofBool f.s ++ f.wcode)

/-! ## Words under a mask -/

theorem opField_and (a b : Cmd) : opField (a &&& b) = opField a &&& opField b :=
  BitVec.extractLsb'_and

/-- Under the opcode's mask a word is its opcode with zeros below. -/
theorem and_opMask (cmd : Cmd) : cmd &&& opMask = opField cmd ++ (0 : BitVec 26) := by
  have hcmd : opField cmd ++ cmd.extractLsb' 0 26 = cmd :=
    (BitVec.extractLsb'_append_extractLsb'_eq_extractLsb' rfl).trans BitVec.extractLsb'_eq_self
  have hmask : BitVec.allOnes 6 ++ (0 : BitVec 26) = opMask := by decide
  calc cmd &&& opMask
      = (opField cmd ++ cmd.extractLsb' 0 26) &&& (BitVec.allOnes 6 ++ (0 : BitVec 26)) := by
        rw [hcmd, hmask]
    _ = opField cmd ++ (0 : BitVec 26) := by
        rw [BitVec.and_append, BitVec.and_allOnes]; exact congrArg _ BitVec.and_zero

/-- Under the variant's mask a word is its S and wcode fields with zeros above. -/
theorem and_variantMask (cmd : Cmd) (din : Din) :
    cmd &&& variantMask = variantBits (fields cmd din) := by
  have hcmd : cmd.extractLsb' 3 29 ++ (cmd.extractLsb' 2 1 ++ cmd.extractLsb' 0 2) = cmd := by
    have hlow : cmd.extractLsb' 2 1 ++ cmd.extractLsb' 0 2 = cmd.extractLsb' 0 3 :=
      BitVec.extractLsb'_append_extractLsb'_eq_extractLsb' rfl
    rw [hlow]
    exact (BitVec.extractLsb'_append_extractLsb'_eq_extractLsb' rfl).trans
      BitVec.extractLsb'_eq_self
  have hmask : (0 : BitVec 29) ++ (BitVec.allOnes 1 ++ BitVec.allOnes 2) = variantMask := by decide
  have hs : cmd.extractLsb' 2 1 = BitVec.ofBool (cmd.getLsbD 2) := by
    ext j hj
    obtain rfl : j = 0 := by omega
    simp
  calc cmd &&& variantMask
      = (cmd.extractLsb' 3 29 ++ (cmd.extractLsb' 2 1 ++ cmd.extractLsb' 0 2)) &&&
          ((0 : BitVec 29) ++ (BitVec.allOnes 1 ++ BitVec.allOnes 2)) := by rw [hcmd, hmask]
    _ = variantBits (fields cmd din) := by
        rw [BitVec.and_append, BitVec.and_append, BitVec.and_allOnes, BitVec.and_allOnes, hs]
        exact congrArg (· ++ _) BitVec.and_zero

/-! ## From the map to the table -/

/-- Every assigned opcode but LDN's has a row: its mask is the opcode and the form's must-be-zero
bits. -/
theorem exists_row_of_opcodeMap (h : opcodeMap op = some (form, make)) (hop : op ≠ 0x22)
    (f : Fields) : ∃ row ∈ opcodeRows, row.mask = opMask ||| form.mbz ∧
      row.pattern = op ++ (0 : BitVec 26) ∧ (make f).mnemonic = row.mnemonic := by
  unfold opcodeMap at h
  split at h <;> cases h
  -- the entry of LDN
  case h_31 => exact absurd rfl hop
  all_goals exact ⟨⟨_, _, _⟩, by decide, rfl, rfl, rfl⟩

/-- LDN has a row for each variant: its mask takes in S and wcode. -/
theorem exists_ldnRow (f : Fields) : ∃ row ∈ opcodeRows,
    row.mask = opMask ||| (variantMask ||| Form.ld.mbz) ∧
      row.pattern = (0x22 : BitVec 6) ++ (0 : BitVec 26) ||| variantBits f ∧
      (ldnOf f).mnemonic = row.mnemonic := by
  unfold ldnOf variantBits
  split <;> rename_i hs hw <;> rw [hs, hw] <;>
    exact ⟨⟨_, _, _⟩, by decide, rfl, rfl, rfl⟩

/-- A decoded word matches a row of its command's mnemonic. -/
theorem exists_row_of_decode (h : decode cmd din = .ok i) :
    ∃ row ∈ opcodeRows, cmd &&& row.mask = row.pattern ∧ i.mnemonic = row.mnemonic := by
  obtain ⟨form, make, hmap, hmbz, rfl⟩ := decode_eq_ok_iff.mp h
  by_cases hop : opField cmd = 0x22
  · have hld : some (Form.ld, ldnOf) = some (form, make) := by rw [← hmap, hop]; rfl
    cases hld
    obtain ⟨row, hrow, hmask, hpattern, hname⟩ := exists_ldnRow (fields cmd din)
    refine ⟨row, hrow, ?_, hname⟩
    rw [hmask, hpattern, BitVec.and_or_distrib_left, BitVec.and_or_distrib_left, and_opMask, hop,
      and_variantMask cmd din, hmbz]
    exact congrArg _ BitVec.or_zero
  · obtain ⟨row, hrow, hmask, hpattern, hname⟩ :=
      exists_row_of_opcodeMap hmap hop (fields cmd din)
    refine ⟨row, hrow, ?_, hname⟩
    rw [hmask, hpattern, BitVec.and_or_distrib_left, and_opMask, hmbz]
    exact BitVec.or_zero

/-! ## From the table to the map -/

/-- A word that matches a mask with all of the opcode and the must-be-zero bits of its form in it
decodes. -/
theorem decode_of_match {mask pattern : Cmd} (hmatch : cmd &&& mask = pattern)
    (hmap : opcodeMap (opField pattern) = some (form, make))
    (hop : opField mask = BitVec.allOnes 6) (hmask : mask &&& form.mbz = form.mbz)
    (hmbz : pattern &&& form.mbz = 0) : decode cmd din = .ok (make (fields cmd din)) := by
  have hfield : opField cmd = opField pattern := by
    rw [← hmatch, opField_and, hop, BitVec.and_allOnes]
  have hzero : cmd &&& form.mbz = 0 := by
    rw [← hmask, ← BitVec.and_assoc, hmatch, hmbz]
  exact decode_eq_ok_iff.mpr ⟨form, make, hfield ▸ hmap, hzero, rfl⟩

/-- Each row's mask has the opcode and the must-be-zero bits of the opcode's form in it, and its
pattern has those bits 0. -/
theorem row_agrees_with_opcodeMap : ∀ row ∈ opcodeRows, opField row.mask = BitVec.allOnes 6 ∧
    ∃ entry ∈ opcodeMap (opField row.pattern),
      row.mask &&& entry.1.mbz = entry.1.mbz ∧ row.pattern &&& entry.1.mbz = 0 := by
  decide

/-- A word that matches a row decodes to a command. -/
theorem decode_of_row {row : Row} (hrow : row ∈ opcodeRows) (h : cmd &&& row.mask = row.pattern)
    (din : Din) : ∃ i, decode cmd din = .ok i := by
  obtain ⟨hop, ⟨form, make⟩, hmap, hmask, hmbz⟩ := row_agrees_with_opcodeMap row hrow
  exact ⟨_, decode_of_match h hmap hop hmask hmbz⟩

/-! ## Exactly one row -/

/-- Any two rows differ in a bit that both masks keep. -/
theorem opcodeRows_disjoint :
    opcodeRows.Pairwise fun r r' => r.pattern &&& r'.mask ≠ r'.pattern &&& r.mask := by
  decide

/-- No word matches two rows. -/
theorem matching_rows (cmd : Cmd) :
    opcodeRows.filter (fun r => cmd &&& r.mask == r.pattern) = [] ∨
      ∃ row, opcodeRows.filter (fun r => cmd &&& r.mask == r.pattern) = [row] := by
  have hmatch : ∀ r ∈ opcodeRows.filter (fun r => cmd &&& r.mask == r.pattern),
      cmd &&& r.mask = r.pattern := fun r hr => beq_iff_eq.mp (List.mem_filter.mp hr).2
  have hdisjoint := opcodeRows_disjoint.filter (fun r => cmd &&& r.mask == r.pattern)
  generalize opcodeRows.filter (fun r => cmd &&& r.mask == r.pattern) = rows at hmatch hdisjoint ⊢
  match rows with
  | [] => exact .inl rfl
  | [row] => exact .inr ⟨row, rfl⟩
  | r :: r' :: rest =>
    have hne := List.rel_of_pairwise_cons hdisjoint (List.mem_cons_self (a := r') (l := rest))
    have hr := hmatch r (by simp)
    have hr' := hmatch r' (by simp)
    refine absurd ?_ hne
    rw [← hr, ← hr', BitVec.and_assoc, BitVec.and_assoc, BitVec.and_comm r.mask]

end Sys2Proof
end

section
/-! PROOFS. Decoding and the step of an issued word (R41, R81, R89 to R91, R94). -/

namespace Sys2Proof.Claims

open Sys2Proof.Machine

section IssuedWords

variable {s : State} {cmd : Cmd} {din : Din} {rest : List HostEvent}

/-- The step of an issued word runs that word, and takes it off the inputs. -/
theorem step_of_issued (h : Issued s cmd din rest) :
    step s = runCommand cmd din { s with port := rest } := by
  obtain ⟨⟨hN, hcode, _⟩, hready, hport⟩ := h
  rw [step_event s _ rest (Nat.ne_of_gt hN) hcode hport]
  simp [takeEvent, hready]

theorem runCommand_of_decode_ok {i : Instr} (h : decode cmd din = .ok i) (s : State) :
    runCommand cmd din s = exec i s := by
  simp [runCommand, h]

/-- A word that is no command ends in ILLEGAL_COMMAND (R222). -/
theorem runCommand_of_decode_error {e : DecodeError} (h : decode cmd din = .error e) (s : State) :
    runCommand cmd din s = errored s 2 := by
  simp only [runCommand, h]
  exact s.raise_eq .illegalCommand

theorem step_of_decode_error {e : DecodeError} (hs : Issued s cmd din rest)
    (h : decode cmd din = .error e) : step s = errored { s with port := rest } 2 := by
  rw [step_of_issued hs, runCommand_of_decode_error h]

/-- The masks of the statement are those of the opcode map's forms. -/
theorem opcodeMap_of_mem_mbzOfOpcode : ∀ p ∈ mbzOfOpcode,
    (opcodeMap p.1).map (fun entry => entry.1.mbz) = some p.2 := by
  have hall : (mbzOfOpcode.all fun p =>
      (opcodeMap p.1).map (fun entry => entry.1.mbz) == some p.2) = true := by decide
  exact fun p hp => beq_iff_eq.mp (List.all_eq_true.mp hall p hp)

end IssuedWords

/-- Settles O3: the map assigns no reserved opcode, and the opcodes of the two words are reserved. -/
theorem reservedOpcodesAreIllegal : Obligations.ReservedOpcodesAreIllegal := by
  unfold Obligations.ReservedOpcodesAreIllegal
  refine ⟨fun s cmd din rest hs hop => ?_, fun s din rest cmd hs hcmd => ?_⟩
  · have hdecode : decode cmd din = .error .reservedOpcode :=
      decode_of_reserved (opcodeMap_eq_none_iff.mpr hop)
    exact ⟨hdecode, step_of_decode_error hs hdecode⟩
  · have hreserved : opcodeMap (opField cmd) = none := by
      rcases hcmd with rfl | rfl <;> rfl
    exact step_of_decode_error hs (decode_of_reserved hreserved)

/-- Settles O4: the opcode is assigned, and its form has the mask of the statement. -/
theorem mustBeZeroBitsAreIllegal : Obligations.MustBeZeroBitsAreIllegal := by
  unfold Obligations.MustBeZeroBitsAreIllegal
  intro s cmd din rest mbz hs hmem hbit
  obtain ⟨⟨form, make⟩, hmap, rfl⟩ :=
    Option.map_eq_some_iff.mp (opcodeMap_of_mem_mbzOfOpcode _ hmem)
  have hdecode : decode cmd din = .error .mustBeZero :=
    (decode_of_assigned hmap).trans (if_pos hbit)
  exact ⟨hdecode, step_of_decode_error hs hdecode⟩

/-- Settles O5: a word that decodes has a row, a word of a row decodes, and no word has two rows. -/
theorem everyWordMatchesOneRowOrIsIllegal : Obligations.EveryWordMatchesOneRowOrIsIllegal := by
  unfold Obligations.EveryWordMatchesOneRowOrIsIllegal
  intro cmd din
  cases hdecode : decode cmd din with
  | ok i =>
    obtain ⟨row, hrow, hmatch, hname⟩ := exists_row_of_decode hdecode
    have hmem : row ∈ opcodeRows.filter (fun r => cmd &&& r.mask == r.pattern) :=
      List.mem_filter.mpr ⟨hrow, beq_iff_eq.mpr hmatch⟩
    rcases matching_rows cmd with hnone | ⟨row', hone⟩
    · exact absurd (hnone ▸ hmem) List.not_mem_nil
    · obtain rfl : row = row' := List.mem_singleton.mp (hone ▸ hmem)
      exact .inl ⟨row, i, hone, rfl, hname⟩
  | error e =>
    refine .inr ⟨e, List.filter_eq_nil_iff.mpr fun row hrow hmatch => ?_, rfl⟩
    obtain ⟨i, hok⟩ := decode_of_row hrow (beq_iff_eq.mp hmatch) din
    exact nomatch hdecode.symm.trans hok

/-- Settles O9: such a word decodes to the same command, or is as illegal, with every DIN. -/
theorem dinIsIgnored : Obligations.DinIsIgnored := by
  unfold Obligations.DinIsIgnored
  intro s cmd din din' hop
  unfold runCommand
  rw [decode_ignores_din hop din din']

/-- Settles O1. -/
theorem stepRunsDecodedCommand : Obligations.StepRunsDecodedCommand := by
  unfold Obligations.StepRunsDecodedCommand
  intro s cmd din rest i hs hdecode
  rw [step_of_issued hs, runCommand_of_decode_ok hdecode]

end Sys2Proof.Claims
end

section
/-! PROOFS. Cells of whole-value operations (R113, R130), and the cells that LDN loads (R202). -/

namespace Sys2Proof.Machine

variable {N : Nat}

/-! ## Operations cell by cell -/

theorem topCell_eq (a : Value N) : topCell a = cell a (N - 1) := rfl

theorem cell_xor (a b : Value N) (i : Nat) : cell (a ^^^ b) i = cell a i ^^^ cell b i :=
  BitVec.extractLsb'_xor

theorem cell_not (a : Value N) {i : Nat} (hi : i < N) : cell (~~~a) i = ~~~cell a i := by
  ext j hj
  have hbit : 8 * i + j < 8 * N := by omega
  simp [cell, hbit]

/-- MIN_W is 0x80 in its most significant cell and 0 below (R16). -/
theorem cell_intMin {i : Nat} (hi : i < N) :
    cell (BitVec.intMin (8 * N) : Value N) i = if i = N - 1 then 0x80 else 0 := by
  have htop : ∀ j < 8, (0x80 : Byte).getLsbD j = decide (j = 7) := by decide
  apply BitVec.eq_of_getLsbD_eq
  intro j hj
  rw [cell, BitVec.getLsbD_extractLsb', BitVec.getLsbD_intMin, decide_eq_true hj, Bool.true_and]
  split
  next hi' => rw [htop j hj, decide_eq_decide]; omega
  next hi' =>
    have hzero : (0 : Byte).getLsbD j = false := BitVec.getLsbD_zero
    rw [hzero, decide_eq_false_iff_not]; omega

/-- NOT's cell loop is the complement of the whole value (R130). -/
theorem notFn_eq (a : Value N) : notFn a = ~~~a := by
  apply cells_inj
  rw [notFn, cells_ofCells _ (by simp), cells, cells, List.map_map]
  refine List.map_congr_left fun i hi => ?_
  exact (cell_not a (List.mem_range.mp hi)).symm

/-- FLIPS is XOR MIN_W on the whole value (R113). -/
theorem flipSignFn_eq (a : Value N) : flipSignFn a = a ^^^ BitVec.intMin (8 * N) := by
  apply cells_inj
  rw [flipSignFn, setCell, cells_ofCells _ (by simp)]
  refine List.ext_getElem (by simp) fun i hi _ => ?_
  have hN : i < N := by simpa using hi
  rw [List.getElem_set, getElem_cells, getElem_cells, cell_xor, cell_intMin hN, topCell_eq]
  by_cases h : i = N - 1
  · subst h; simp
  · rw [if_neg (Ne.symm h), if_neg h]; simp

/-! ## Native values -/

/-- m cells 0xFF hold `256^m - 1`. -/
theorem cellsVal_replicate_ff (m : Nat) : cellsVal (List.replicate m 0xFF) = 256 ^ m - 1 := by
  induction m with
  | zero => rfl
  | succ m ih =>
    have hpos : 0 < 256 ^ m := by positivity
    have hff : (0xFF : Byte).toNat = 255 := rfl
    rw [List.replicate_succ, cellsVal, ih, Nat.pow_succ, hff]
    omega

theorem cellsVal_replicate_zero (m : Nat) : cellsVal (List.replicate m 0x00) = 0 := by
  induction m with
  | zero => rfl
  | succ m ih => rw [List.replicate_succ, cellsVal, ih]; rfl

/-- The low k bytes of DIN hold DIN modulo 256^k: DIN is a value of 8 cells. -/
theorem cellsVal_nativeBytes (k : Nat) (din : Din) :
    cellsVal ((List.range k).map (nativeByte din)) = din.toNat % 256 ^ k :=
  cellsVal_take (N := 8) din k

/-- The cells that LDN loads hold the low k bytes of DIN, and the fill of a negative value above. -/
theorem cellsVal_nativeCells {k : Nat} (hk : k ≤ N) (signed : Bool) (din : Din) :
    cellsVal (nativeCells N k signed din) = din.toNat % 256 ^ k +
      if nativeNegative k signed din then 256 ^ N - 256 ^ k else 0 := by
  rw [nativeCells, cellsVal_append, cellsVal_nativeBytes, List.length_map, List.length_range]
  cases nativeNegative k signed din with
  | false =>
    simp only [Bool.false_eq_true, if_false]
    rw [cellsVal_replicate_zero, Nat.mul_zero]
  | true =>
    simp only [if_true]
    rw [cellsVal_replicate_ff, Nat.mul_sub, ← Nat.pow_add, Nat.add_sub_cancel' hk, Nat.mul_one]

theorem length_nativeCells {k : Nat} (hk : k ≤ N) (signed : Bool) (din : Din) :
    (nativeCells N k signed din).length = N := by
  simp [nativeCells, hk]

/-- LDN of a signed native type sign-extends the low k bytes of DIN. -/
theorem ofCells_nativeCells_signed {k : Nat} (hpos : 0 < k) (hk : k ≤ N) (din : Din) :
    ofCells N (nativeCells N k true din) = (din.setWidth (8 * k)).signExtend (8 * N) := by
  have hlen : (nativeCells N k true din).length = N := length_nativeCells hk true din
  have hlt := cellsVal_lt (nativeCells N k true din)
  have hmono : 256 ^ k ≤ 256 ^ N := Nat.pow_le_pow_right (by decide) hk
  have hneg : (din.setWidth (8 * k)).msb = nativeNegative k true din := by
    simp [nativeNegative, BitVec.msb_setWidth, hpos]
  rw [hlen] at hlt
  apply BitVec.eq_of_toNat_eq
  rw [ofCells_toNat, Nat.mod_eq_of_lt hlt, cellsVal_nativeCells hk, BitVec.toNat_signExtend, hneg]
  have hmod : din.toNat % 256 ^ k < 256 ^ N :=
    Nat.lt_of_lt_of_le (Nat.mod_lt _ (by positivity)) hmono
  simp [two_pow_width, Nat.mod_eq_of_lt hmod]

end Sys2Proof.Machine
end

section
/-! PROOFS. The assembler's pseudo-instructions: their expansions and what running them leaves
(R98 to R102). -/

namespace Sys2Proof.Claims

open Sys2Proof.Machine

/-! ## Running commands in order -/

/-- The state in which a command that wrote v to rd leaves the block. -/
def written (s : State) (rd : Reg) (v : Value s.N) : State :=
  { s with block := { s.block with x := s.block.x.set rd v, st := { s.block.st with code := 0 } } }

section Runs

variable (s : State) (rd rs1 : Reg) (v : Value s.N)

theorem wrote_eq : wrote s rd v = .next (written s rd v) := rfl

theorem finish_setReg_eq : s.finish (s.block.setReg rd v) = wrote s rd v := rfl

/-- A register just written reads back as written. -/
theorem val_written_same : val (written s rd v) rd = v :=
  Vector.getElem_set_self rd.isLt

/-- A second write to the same register leaves no trace of the first. -/
theorem wrote_written_same (w : Value s.N) : wrote (written s rd v) rd w = wrote s rd w := by
  have hx : (s.block.x.set rd v).set rd w = s.block.x.set rd w := Vector.set_set v rd.isLt
  simp only [wrote, written, hx]

theorem runInstrs_nil : runInstrs [] s = .next s := rfl

theorem runInstrs_cons_of_next {i : Instr} {s t : State} (h : exec i s = .next t)
    (is : List Instr) : runInstrs (i :: is) s = runInstrs is t := by
  simp [runInstrs, h]

/-- ZERO writes 0 (R200). -/
theorem exec_zero : exec (.zero rd) s = wrote s rd 0 := rfl

/-- FLIPS writes the operand XOR MIN_W (R113). -/
theorem exec_flips :
    exec (.flips rd rs1) s = wrote s rd (val s rs1 ^^^ BitVec.intMin (8 * s.N)) := by
  rw [← finish_setReg_eq, ← flipSignFn_eq]; rfl

/-- NOT writes the operand's complement (R130). -/
theorem exec_not : exec (.not rd rs1) s = wrote s rd (~~~val s rs1) := by
  rw [← finish_setReg_eq, ← notFn_eq]; rfl

/-- After a write of v to rd, FLIPS in place leaves `v XOR MIN_W`. -/
theorem exec_flips_written : exec (.flips rd rd) (written s rd v) =
    .next (written s rd (v ^^^ BitVec.intMin (8 * s.N))) := by
  rw [exec_flips, val_written_same]
  exact wrote_written_same s rd v _

/-- After a write of v to rd, NOT in place leaves the complement of v. -/
theorem exec_not_written : exec (.not rd rd) (written s rd v) = .next (written s rd (~~~v)) := by
  rw [exec_not, val_written_same]
  exact wrote_written_same s rd v _

/-- Zero with its sign bit flipped is MIN_W: what runs after these two commands starts from it. -/
theorem runInstrs_min (is : List Instr) : runInstrs (.zero rd :: .flips rd rd :: is) s =
    runInstrs is (written s rd (BitVec.intMin (8 * s.N))) := by
  have hmin : (0 : Value s.N) ^^^ BitVec.intMin (8 * s.N) = BitVec.intMin (8 * s.N) :=
    BitVec.zero_xor
  have hzero : exec (.zero rd) s = .next (written s rd 0) := exec_zero s rd
  rw [runInstrs_cons_of_next hzero, runInstrs_cons_of_next (exec_flips_written s rd 0), hmin]

end Runs

/-! ## Expansions -/

section Expansions

variable (N : Nat) (rd : Reg) (v : Int)

theorem assemble_of_pseudo {N : Nat} {mnemonic : String} {ops : List Operand} {is : List Instr}
    (h : pseudo N mnemonic ops = some is) : assemble N mnemonic ops = some is := by
  simp [assemble, h]

theorem assemble_min : assemble N "min" [.reg rd] = some (minPseudo rd) :=
  assemble_of_pseudo rfl

theorem assemble_max : assemble N "max" [.reg rd] = some (maxPseudo rd) :=
  assemble_of_pseudo rfl

/-- `li` is no command's mnemonic: the line is what R99 makes of it, or is rejected. -/
theorem assemble_li : assemble N "li" [.reg rd, .int v] = li N rd v := by
  have hpseudo : pseudo N "li" [.reg rd, .int v] = li N rd v := rfl
  have hcommand : assembleCommand "li" [.reg rd, .int v] = none := rfl
  unfold assemble
  rw [hpseudo, hcommand]
  cases li N rd v <;> rfl

end Expansions

/-! ## `li` -/

/-- The widths a load of v may have in a block of width N (R99). -/
def liFits (N : Nat) (v : Int) (k : Nat) : Bool := decide (k ≤ N) && fitsSigned k v

theorem liFits_iff {N k : Nat} {v : Int} : liFits N v k = true ↔ k ≤ N ∧ FitsSigned k v := by
  simp [liFits, fitsSigned, FitsSigned]

theorem li_eq (N : Nat) (rd : Reg) (v : Int) : li N rd v =
    (([1, 2, 4, 8].find? (liFits N v)).bind fun k => ldnSigned k rd (BitVec.ofInt 64 v)).map ([·]) :=
  rfl

/-- In an ascending list the first element with a property is the least one. -/
theorem find?_eq_some_of_least {l : List Nat} {p : Nat → Bool} {k : Nat} (hl : l.Pairwise (· < ·))
    (hk : k ∈ l) (hp : p k = true) (hleast : ∀ j ∈ l, j < k → ¬p j = true) : l.find? p = some k := by
  induction l with
  | nil => cases hk
  | cons a l ih =>
    obtain ⟨ha, hl⟩ := List.pairwise_cons.mp hl
    rcases List.mem_cons.mp hk with rfl | hk
    · exact List.find?_cons_of_pos hp
    · rw [List.find?_cons_of_neg (hleast a List.mem_cons_self (ha k hk))]
      exact ih hl hk fun j hj => hleast j (List.mem_cons_of_mem a hj)

/-- The four signed loads, by width: the commands that `li` chooses from, and what they do. -/
theorem signed_loads :
    ∀ p ∈ [(1, Instr.ldnS8), (2, Instr.ldnS16), (4, Instr.ldnS32), (8, Instr.ldnS64)],
      p.1 ∈ [1, 2, 4, 8] ∧ (∀ rd din, ldnSigned p.1 rd din = some (p.2 rd din)) ∧
        ∀ rd din s, exec (p.2 rd din) s = loadNative p.1 true rd din s := by
  simp only [List.forall_mem_cons]
  refine ⟨?_, ?_, ?_, ?_, List.forall_mem_nil _⟩ <;>
    exact ⟨by decide, fun _ _ => rfl, fun _ _ _ => rfl⟩

/-- The low bits of an integer's pattern are its pattern at the smaller width. -/
theorem setWidth_ofInt {m n : Nat} (h : m ≤ n) (v : Int) :
    (BitVec.ofInt n v).setWidth m = BitVec.ofInt m v := by
  have hmod : v % (2 ^ n : Nat) % (2 ^ m : Nat) = v % (2 ^ m : Nat) :=
    Int.emod_emod_of_dvd v (Int.natCast_dvd_natCast.mpr (pow_dvd_pow 2 h))
  have hn : 0 ≤ v % (2 ^ n : Nat) := Int.emod_nonneg v (by positivity)
  apply BitVec.eq_of_toNat_eq
  rw [BitVec.toNat_setWidth, BitVec.toNat_ofInt, BitVec.toNat_ofInt, ← hmod,
    Int.toNat_emod hn (Int.natCast_nonneg _), Int.toNat_natCast]

/-- A native value of k bytes on DIN is v again in every width of k or more bytes. -/
theorem signExtend_native {N k : Nat} {v : Int} (hpos : 0 < k) (hk8 : k ≤ 8) (hv : FitsSigned k v) :
    ((BitVec.ofInt 64 v).setWidth (8 * k)).signExtend (8 * N) = BitVec.ofInt (8 * N) v := by
  rw [setWidth_ofInt (by omega), BitVec.signExtend, BitVec.toInt_ofInt_eq_self (by omega) hv.1 hv.2]

/-- v fits every width of k bytes or more. -/
theorem toInt_ofInt_of_fits {N k : Nat} {v : Int} (hpos : 0 < k) (hk : k ≤ N) (hv : FitsSigned k v) :
    (BitVec.ofInt (8 * N) v).toInt = v := by
  have hpow : (2 : Int) ^ (8 * k - 1) ≤ 2 ^ (8 * N - 1) :=
    pow_le_pow_right₀ (by decide) (by omega)
  obtain ⟨hlow, hhigh⟩ := hv
  exact BitVec.toInt_ofInt_eq_self (by omega) (by omega) (by omega)

/-! ## The obligations -/

/-- Settles O49: zero, its sign bit flipped, is MIN_W, and the complement of that is MAX_W. -/
theorem minAndMaxPseudoInstructions : Obligations.MinAndMaxPseudoInstructions := by
  unfold Obligations.MinAndMaxPseudoInstructions
  intro s rd
  refine ⟨assemble_min s.N rd, ?_, assemble_max s.N rd, ?_⟩
  · rw [runInstrs_min, runInstrs_nil, wrote_eq]
  · rw [runInstrs_min, runInstrs_cons_of_next (exec_not_written s rd _), runInstrs_nil, wrote_eq]

/-- Settles O50: the least width is the one found, and sign extension keeps the value. -/
theorem loadImmediateLoadsItsValue : Obligations.LoadImmediateLoadsItsValue := by
  unfold Obligations.LoadImmediateLoadsItsValue
  intro s rd v
  refine ⟨fun p hp hN hfits hleast => ?_, fun hnone => ?_⟩
  · obtain ⟨hmem, hldn, hexec⟩ := signed_loads p hp
    have hbounds : ∀ k ∈ [1, 2, 4, 8], 0 < k ∧ k ≤ 8 := by decide
    obtain ⟨hpos, hk8⟩ := hbounds p.1 hmem
    have hfind : [1, 2, 4, 8].find? (liFits s.N v) = some p.1 :=
      find?_eq_some_of_least (by decide) hmem (liFits_iff.mpr ⟨hN, hfits⟩)
        fun j hj hlt hj' => hleast j hj hlt (liFits_iff.mp hj').2
    refine ⟨?_, ?_, toInt_ofInt_of_fits hpos hN hfits⟩
    · rw [assemble_li, li_eq, hfind, Option.bind_some, hldn, Option.map_some]
    · rw [hexec, loadNative, if_neg (Nat.not_lt.mpr hN), finish_setReg_eq,
        ofCells_nativeCells_signed hpos hN, signExtend_native hpos hk8 hfits]
  · have hfind : [1, 2, 4, 8].find? (liFits s.N v) = none :=
      List.find?_eq_none.mpr fun k hk hk' =>
        hnone k hk (liFits_iff.mp hk').1 (liFits_iff.mp hk').2
    rw [assemble_li, li_eq, hfind, Option.bind_none, Option.map_none]

/-- Settles O51: the seven are the entries of the shorthands' table, which the assembler reads before
it looks for a command of that name. -/
theorem inPlaceShorthands : Obligations.InPlaceShorthands := by
  unfold Obligations.InPlaceShorthands
  intro N rd
  exact ⟨assemble_of_pseudo rfl, assemble_of_pseudo rfl, assemble_of_pseudo rfl,
    assemble_of_pseudo rfl, assemble_of_pseudo rfl, assemble_of_pseudo rfl, assemble_of_pseudo rfl⟩

end Sys2Proof.Claims
end

section
/-! PROOFS. Cells read and written (R14, R110, R111, R115, R116), the sign bit as a sign (R112), and the
rows of the opcode table as rows of commands (R88). -/

namespace Sys2Proof.Machine

variable {N : Nat}

/-- A cell with bit 7 cleared is its low 7 bits (R111). -/
theorem cell_and_0x7F (v : Value N) (i : Nat) :
    cell v i &&& 0x7F = BitVec.ofNat 8 (v.toNat / 256 ^ i % 128) := by
  apply BitVec.eq_of_toNat_eq
  have hlow : v.toNat / 256 ^ i % 256 &&& 127 = v.toNat / 256 ^ i % 256 % 128 :=
    Nat.and_two_pow_sub_one_eq_mod _ 7
  have hmask : (0x7F : Byte).toNat = 127 := rfl
  rw [BitVec.toNat_and, cell_toNat, hmask, hlow, BitVec.toNat_ofNat]
  omega

/-- A write to a cell is read back from it, and leaves every other cell alone (R116). -/
theorem cell_setCell (v : Value N) (i : Nat) (b : Byte) {j : Nat} (hj : j < N) :
    cell (setCell v i b) j = if j = i then b else cell v j := by
  have hcells : cells (setCell v i b) = (cells v).set i b := cells_ofCells _ (by simp)
  have hlen : j < (cells (setCell v i b)).length := by rwa [length_cells]
  rw [← getElem_cells _ j hlen]
  simp only [hcells, List.getElem_set, getElem_cells, eq_comm (a := i)]

/-- The sign bit is set exactly in the negative values (R15, R112). -/
theorem isNegFn_eq (a : Value N) : isNegFn a = decide (a.toInt < 0) := by
  rw [isNegFn, signBit, ← BitVec.msb_eq_getLsbD_last, BitVec.msb_eq_toInt]

end Sys2Proof.Machine

namespace Sys2Proof.Claims

open Sys2Proof.Machine

/-- The cell of an integer is the model's cell (R14). -/
theorem byteAt_eq_cell {N : Nat} (v : Value N) (i : Nat) : byteAt v i = cell v i := by
  apply BitVec.eq_of_toNat_eq
  rw [byteAt, BitVec.toNat_ofNat, cell_toNat]

/-- A row of the table decodes to the command that its opcode's map entry makes. -/
theorem rowDecodes_of_mem (mnemonic : String) {mask pattern : Cmd} {command : Cmd → Din → Instr}
    (hrow : ⟨mnemonic, mask, pattern⟩ ∈ opcodeRows)
    (hcommand : ∀ cmd din, (opcodeMap (opField pattern)).map (·.2 (fields cmd din)) =
      some (command cmd din)) : RowDecodes mask pattern command := by
  obtain ⟨hop, ⟨form, make⟩, hmap, hmask, hmbz⟩ := row_agrees_with_opcodeMap _ hrow
  replace hmap : opcodeMap (opField pattern) = some (form, make) := hmap
  rw [hmap] at hcommand
  intro cmd din hmatch
  have hmake : make (fields cmd din) = command cmd din := Option.some.inj (hcommand cmd din)
  rw [decode_of_match hmatch hmap hop hmask hmbz, hmake]

end Sys2Proof.Claims
end

section
/-! PROOFS. The byte-storage core's commands: what each writes (R110 to R116), and the errors of GETB and
SETB (R224). -/

namespace Sys2Proof.Claims

open Sys2Proof.Machine

section Effects

variable (s : State) (rd rs1 : Reg) (din : Din) (imm8 : Byte)

/-! ## Completing and raising in the statements' terms -/

theorem finish_setF_eq (v : Bool) : s.finish (s.block.setF v) = wroteF s v := rfl

theorem finish_setBr_eq (v : Byte) : s.finish (s.block.setBr v) = wroteBR s v := rfl

theorem raise_eq_errored (e : Error) : s.raise e = errored s e.code := rfl

/-! ## The commands -/

/-- MSB writes cell N-1 (R110). -/
theorem exec_msb : exec (.msb rs1) s = wroteBR s (byteAt (val s rs1) (s.N - 1)) := by
  rw [byteAt_eq_cell, ← finish_setBr_eq]; rfl

/-- MSBNS writes cell N-1 with bit 7 cleared (R111). -/
theorem exec_msbns : exec (.msbns rs1) s =
    wroteBR s (BitVec.ofNat 8 ((val s rs1).toNat / 256 ^ (s.N - 1) % 128)) := by
  rw [← cell_and_0x7F, ← finish_setBr_eq]; rfl

/-- ISNEG writes the sign bit (R112). -/
theorem exec_isneg : exec (.isneg rs1) s = wroteF s (decide ((val s rs1).toInt < 0)) := by
  rw [← isNegFn_eq, ← finish_setF_eq]; rfl

/-- MOV writes the operand (R114). -/
theorem exec_mov : exec (.mov rd rs1) s = wrote s rd (val s rs1) := rfl

/-- GETB of a cell that the register has (R115). -/
theorem exec_getb_of_lt (h : din.toNat < s.N) :
    exec (.getb rs1 din) s = wroteBR s (byteAt (val s rs1) din.toNat) := by
  rw [byteAt_eq_cell, ← finish_setBr_eq]
  exact if_neg (Nat.not_le.mpr h)

/-- GETB of a cell that the register does not have (R224). -/
theorem exec_getb_of_ge (h : s.N ≤ din.toNat) : exec (.getb rs1 din) s = errored s 4 :=
  (if_pos h).trans (raise_eq_errored s .byteIndexRange)

/-- SETB of a cell that the register has (R116). -/
theorem exec_setb_of_lt (h : din.toNat < s.N) :
    exec (.setb rd din imm8) s = wrote s rd (setCell (val s rd) din.toNat imm8) := by
  rw [← finish_setReg_eq]
  exact if_neg (Nat.not_le.mpr h)

/-- SETB of a cell that the register does not have (R224). -/
theorem exec_setb_of_ge (h : s.N ≤ din.toNat) : exec (.setb rd din imm8) s = errored s 4 :=
  (if_pos h).trans (raise_eq_errored s .byteIndexRange)

end Effects

/-! ## The obligations -/

/-- Settles O27: the two rows, and the top cell by its integer, whole and modulo 128. -/
theorem mostSignificantByteCommands : Obligations.MostSignificantByteCommands := by
  unfold Obligations.MostSignificantByteCommands
  exact ⟨rowDecodes_of_mem "msb" (by decide) fun _ _ => rfl,
    rowDecodes_of_mem "msbns" (by decide) fun _ _ => rfl,
    fun s rs1 => ⟨exec_msb s rs1, exec_msbns s rs1⟩⟩

/-- Settles O28: the row, and the sign bit read as a sign. -/
theorem signQueryCommand : Obligations.SignQueryCommand := by
  unfold Obligations.SignQueryCommand
  exact ⟨rowDecodes_of_mem "isneg" (by decide) fun _ _ => rfl, exec_isneg⟩

/-- Settles O29: the row, and the flipped top cell as XOR MIN_W. -/
theorem flipSignCommand : Obligations.FlipSignCommand := by
  unfold Obligations.FlipSignCommand
  exact ⟨rowDecodes_of_mem "flips" (by decide) fun _ _ => rfl, exec_flips⟩

/-- Settles O30. -/
theorem copyCommand : Obligations.CopyCommand := by
  unfold Obligations.CopyCommand
  exact ⟨rowDecodes_of_mem "mov" (by decide) fun _ _ => rfl, exec_mov⟩

/-- Settles O31: the row, and an index on each side of N. -/
theorem getbReadsOneCell : Obligations.GetbReadsOneCell := by
  unfold Obligations.GetbReadsOneCell
  exact ⟨rowDecodes_of_mem "getb" (by decide) fun _ _ => rfl,
    fun s rs1 din => ⟨exec_getb_of_lt s rs1 din, exec_getb_of_ge s rs1 din⟩⟩

/-- Settles O32: the value written is the register with that one cell set. -/
theorem setbWritesOneCell : Obligations.SetbWritesOneCell := by
  unfold Obligations.SetbWritesOneCell
  refine ⟨rowDecodes_of_mem "setb" (by decide) fun _ _ => rfl, fun s rd din imm8 =>
    ⟨fun h => ⟨_, exec_setb_of_lt s rd din imm8 h, fun j hj => ?_⟩, exec_setb_of_ge s rd din imm8⟩⟩
  rw [byteAt_eq_cell, byteAt_eq_cell, cell_setCell _ _ _ hj]

end Sys2Proof.Claims
end

section
/-! PROOFS. The cell loops of the bitwise engine as operations on the whole value (R131 to R135), and the
closed forms of the shifts by an amount (R137, R138). -/

namespace Sys2Proof.Machine

variable {N : Nat}

/-! ## Cell-wise logic -/

theorem cell_and (a b : Value N) (i : Nat) : cell (a &&& b) i = cell a i &&& cell b i :=
  BitVec.extractLsb'_and

theorem cell_or (a b : Value N) (i : Nat) : cell (a ||| b) i = cell a i ||| cell b i :=
  BitVec.extractLsb'_or

/-- A loop that combines two values cell by cell gives the value that has the combined cells. -/
theorem ofCells_zipWith_cells (f : Byte → Byte → Byte) {a b c : Value N}
    (h : ∀ i, cell c i = f (cell a i) (cell b i)) :
    ofCells N (List.zipWith f (cells a) (cells b)) = c := by
  apply cells_inj
  rw [cells_ofCells _ (by simp), cells, cells, cells, List.zipWith_map, List.zipWith_self]
  exact List.map_congr_left fun i _ => (h i).symm

theorem andFn_eq (a b : Value N) : andFn a b = a &&& b := ofCells_zipWith_cells _ (cell_and a b)

theorem orFn_eq (a b : Value N) : orFn a b = a ||| b := ofCells_zipWith_cells _ (cell_or a b)

theorem xorFn_eq (a b : Value N) : xorFn a b = a ^^^ b := ofCells_zipWith_cells _ (cell_xor a b)

/-! ## SHL1 (R134) -/

/-- The bit a cell hands on when it is shifted left. -/
theorem toNat_getLsbD_seven (a : Byte) : (a.getLsbD 7).toNat = a.toNat / 128 := by
  have hlt : a.toNat / 2 ^ 7 < 2 := by have := a.isLt; omega
  rw [BitVec.getLsbD, Nat.toNat_testBit, Nat.mod_eq_of_lt hlt]
  rfl

/-- The bit a cell hands on when it is shifted right. -/
theorem toNat_getLsbD_zero (a : Byte) : (a.getLsbD 0).toNat = a.toNat % 2 := by
  rw [BitVec.getLsbD, Nat.toNat_testBit, Nat.pow_zero, Nat.div_one]

/-- A cell doubled leaves bit 0 free for the carry. -/
theorem toNat_shl1Cell (carry : Bool) (a : Byte) :
    (BitVec.ofNat 8 (a.toNat * 2) ||| (BitVec.ofBool carry).setWidth 8).toNat =
      (2 * a.toNat + carry.toNat) % 256 := by
  have hcarry : carry.toNat < 2 ^ 1 := carry.toNat_lt
  have hbit : ((BitVec.ofBool carry).setWidth 8).toNat = carry.toNat := by cases carry <;> rfl
  have heven : a.toNat * 2 % 256 = 2 ^ 1 * (a.toNat % 128) := by omega
  rw [BitVec.toNat_or, BitVec.toNat_ofNat, hbit, heven, ← Nat.two_pow_add_eq_or_of_lt hcarry]
  omega

/-- The left-shift loop doubles what the cells hold and puts the carry at the bottom; what leaves the last
cell is lost. -/
theorem cellsVal_shl1Cells (carry : Bool) (cs : List Byte) :
    cellsVal (shl1Cells carry cs) = (2 * cellsVal cs + carry.toNat) % 256 ^ cs.length := by
  induction cs generalizing carry with
  | nil => exact (Nat.mod_one _).symm
  | cons a as ih =>
    have hnext : 2 * cellsVal as + a.toNat / 128 =
        (2 * cellsVal (a :: as) + carry.toNat) / 256 := by
      have := carry.toNat_lt
      rw [cellsVal]; omega
    have hcell : (2 * a.toNat + carry.toNat) % 256 =
        (2 * cellsVal (a :: as) + carry.toNat) % 256 := by
      rw [cellsVal]; omega
    rw [shl1Cells, cellsVal, ih, toNat_shl1Cell, toNat_getLsbD_seven, hnext, hcell,
      List.length_cons, Nat.pow_succ', Nat.mod_mul]

/-- SHL1's cell loop doubles the unsigned value modulo `2^W`. -/
theorem shl1Fn_eq (a : Value N) : shl1Fn a = BitVec.ofNat (8 * N) (2 * a.toNat) := by
  apply BitVec.eq_of_toNat_eq
  rw [shl1Fn, ofCells_toNat, cellsVal_shl1Cells, length_cells, cellsVal_cells, Nat.mod_mod,
    BitVec.toNat_ofNat, two_pow_width]
  rfl

/-! ## SHR1 (R135) -/

/-- A cell halved leaves bit 7 free for the carry. -/
theorem toNat_shr1Cell (carry : Bool) (a : Byte) :
    (BitVec.ofNat 8 (a.toNat / 2) ||| (if carry then 0x80 else 0x00)).toNat =
      a.toNat / 2 + 128 * carry.toNat := by
  have hhalf : a.toNat / 2 < 2 ^ 7 := by have := a.isLt; omega
  have hbit : (if carry then 0x80 else 0x00 : Byte).toNat = 2 ^ 7 * carry.toNat := by
    cases carry <;> rfl
  have hcell : (BitVec.ofNat 8 (a.toNat / 2)).toNat = a.toNat / 2 := by
    rw [BitVec.toNat_ofNat]; omega
  rw [BitVec.toNat_or, hcell, hbit, Nat.or_comm, ← Nat.two_pow_add_eq_or_of_lt hhalf, Nat.add_comm]

@[simp] theorem length_shr1Cells (carry : Bool) (cs : List Byte) :
    (shr1Cells carry cs).length = cs.length := by
  induction cs generalizing carry with
  | nil => rfl
  | cons a as ih => rw [shr1Cells, List.length_cons, List.length_cons, ih]

/-- The right-shift loop halves what the cells hold, with the carry above the most significant cell, and
rounds down. -/
theorem cellsVal_shr1Cells (carry : Bool) (cs : List Byte) :
    cellsVal (shr1Cells carry cs).reverse =
      (cellsVal cs.reverse + 256 ^ cs.length * carry.toNat) / 2 := by
  induction cs generalizing carry with
  | nil => cases carry <;> rfl
  | cons a as ih =>
    rw [shr1Cells, List.reverse_cons, List.reverse_cons, cellsVal_append, cellsVal_append, ih]
    simp only [cellsVal, List.length_reverse, length_shr1Cells, List.length_cons, Nat.mul_zero,
      Nat.add_zero, toNat_shr1Cell, toNat_getLsbD_zero]
    generalize cellsVal as.reverse = v, as.length = n
    have hsplit : v + 256 ^ n * a.toNat + 256 ^ (n + 1) * carry.toNat =
        v + 256 ^ n * (a.toNat % 2) + 2 * (256 ^ n * (a.toNat / 2 + 128 * carry.toNat)) := by
      conv_lhs => rw [← Nat.mod_add_div a.toNat 2]
      ring
    rw [hsplit, Nat.add_mul_div_left _ _ (by decide)]

/-- SHR1's cell loop halves the unsigned value and rounds down: the shift is logical. -/
theorem shr1Fn_eq (a : Value N) : shr1Fn a = BitVec.ofNat (8 * N) (a.toNat / 2) := by
  rw [shr1Fn, ofCells, cellsVal_shr1Cells, List.reverse_reverse, cellsVal_cells]
  rfl

/-! ## SHL and SHR (R136 to R138) -/

theorem shlFn_of_width_le {s : Nat} (h : 8 * N ≤ s) (a : Value N) : shlFn a s = 0 := if_pos h

theorem shrFn_of_width_le {s : Nat} (h : 8 * N ≤ s) (a : Value N) : shrFn a s = 0 := if_pos h

/-- SHL multiplies by `2^s` modulo `2^W`; from W on, no bit of the product is left. -/
theorem shlFn_eq (a : Value N) (s : Nat) : shlFn a s = BitVec.ofNat (8 * N) (a.toNat * 2 ^ s) := by
  by_cases h : 8 * N ≤ s
  · have hdvd : 2 ^ (8 * N) ∣ a.toNat * 2 ^ s := Dvd.dvd.mul_left (Nat.pow_dvd_pow 2 h) _
    rw [shlFn_of_width_le h]
    exact BitVec.eq_of_toNat_eq (Nat.mod_eq_zero_of_dvd hdvd).symm
  · rw [shlFn, if_neg h, enc, ← BitVec.ofInt_natCast, Nat.cast_mul, Nat.cast_pow]
    rfl

/-- SHR divides by `2^s` and rounds down; from W on, the quotient is 0. -/
theorem shrFn_eq (a : Value N) (s : Nat) : shrFn a s = BitVec.ofNat (8 * N) (a.toNat / 2 ^ s) := by
  by_cases h : 8 * N ≤ s
  · have hlt : a.toNat < 2 ^ s := Nat.lt_of_lt_of_le a.isLt (Nat.pow_le_pow_right (by decide) h)
    rw [shrFn_of_width_le h, Nat.div_eq_of_lt hlt]
    rfl
  · rw [shrFn, if_neg h]
    exact BitVec.ofInt_natCast _ _

end Sys2Proof.Machine
end

section
/-! PROOFS. The bitwise engine's commands: what each writes (R130 to R138), and the error of SHL and SHR
(R226). -/

namespace Sys2Proof.Claims

open Sys2Proof.Machine

section BitwiseEffects

variable (s : State) (rd rs1 rs2 : Reg)

/-! ## Logic and single-bit shifts -/

/-- AND (R131). -/
theorem exec_and : exec (.and rd rs1 rs2) s = wrote s rd (val s rs1 &&& val s rs2) := by
  rw [← finish_setReg_eq, ← andFn_eq]; rfl

/-- OR (R132). -/
theorem exec_or : exec (.or rd rs1 rs2) s = wrote s rd (val s rs1 ||| val s rs2) := by
  rw [← finish_setReg_eq, ← orFn_eq]; rfl

/-- XOR (R133). -/
theorem exec_xor : exec (.xor rd rs1 rs2) s = wrote s rd (val s rs1 ^^^ val s rs2) := by
  rw [← finish_setReg_eq, ← xorFn_eq]; rfl

/-- SHL1 doubles (R134). -/
theorem exec_shl1 : exec (.shl1 rd rs1) s =
    wrote s rd (BitVec.ofNat (8 * s.N) (2 * (val s rs1).toNat)) := by
  rw [← finish_setReg_eq, ← shl1Fn_eq]; rfl

/-- SHR1 halves (R135). -/
theorem exec_shr1 : exec (.shr1 rd rs1) s =
    wrote s rd (BitVec.ofNat (8 * s.N) ((val s rs1).toNat / 2)) := by
  rw [← finish_setReg_eq, ← shr1Fn_eq]; rfl

/-! ## Shifts by a register -/

/-- SHL by a negative amount (R226). -/
theorem exec_shl_of_neg (h : (val s rs2).toInt < 0) : exec (.shl rd rs1 rs2) s = errored s 3 :=
  (if_pos h).trans (raise_eq_errored s .undefinedShift)

/-- SHR by a negative amount (R226). -/
theorem exec_shr_of_neg (h : (val s rs2).toInt < 0) : exec (.shr rd rs1 rs2) s = errored s 3 :=
  (if_pos h).trans (raise_eq_errored s .undefinedShift)

/-- SHL by an amount of 0 or more (R137). -/
theorem exec_shl_of_nonneg (h : 0 ≤ (val s rs2).toInt) : exec (.shl rd rs1 rs2) s =
    wrote s rd (shlFn (val s rs1) (val s rs2).toInt.toNat) := by
  rw [← finish_setReg_eq]
  exact if_neg (not_lt.mpr h)

/-- SHR by an amount of 0 or more (R138). -/
theorem exec_shr_of_nonneg (h : 0 ≤ (val s rs2).toInt) : exec (.shr rd rs1 rs2) s =
    wrote s rd (shrFn (val s rs1) (val s rs2).toInt.toNat) := by
  rw [← finish_setReg_eq]
  exact if_neg (not_lt.mpr h)

end BitwiseEffects

/-! ## The obligations -/

/-- Settles O33: the four rows, and each cell loop as the operation on the whole value. -/
theorem bitwiseLogicCommands : Obligations.BitwiseLogicCommands := by
  unfold Obligations.BitwiseLogicCommands
  exact ⟨rowDecodes_of_mem "not" (by decide) fun _ _ => rfl,
    rowDecodes_of_mem "and" (by decide) fun _ _ => rfl,
    rowDecodes_of_mem "or" (by decide) fun _ _ => rfl,
    rowDecodes_of_mem "xor" (by decide) fun _ _ => rfl,
    fun s rd rs1 rs2 => ⟨exec_not s rd rs1, exec_and s rd rs1 rs2, exec_or s rd rs1 rs2,
      exec_xor s rd rs1 rs2⟩⟩

/-- Settles O34: the two rows, and the carry loops as doubling and halving, by induction on the cells. -/
theorem singleBitShiftCommands : Obligations.SingleBitShiftCommands := by
  unfold Obligations.SingleBitShiftCommands
  exact ⟨rowDecodes_of_mem "shl1" (by decide) fun _ _ => rfl,
    rowDecodes_of_mem "shr1" (by decide) fun _ _ => rfl,
    fun s rd rs1 => ⟨exec_shl1 s rd rs1, exec_shr1 s rd rs1⟩⟩

/-- Settles O35: the two rows, and an amount below 0, of 0 or more, and of W or more. -/
theorem registerShiftCommands : Obligations.RegisterShiftCommands := by
  unfold Obligations.RegisterShiftCommands
  refine ⟨rowDecodes_of_mem "shl" (by decide) fun _ _ => rfl,
    rowDecodes_of_mem "shr" (by decide) fun _ _ => rfl, fun s rd rs1 rs2 =>
    ⟨fun h => ⟨exec_shl_of_neg s rd rs1 rs2 h, exec_shr_of_neg s rd rs1 rs2 h⟩,
      fun h => ?_, fun h => ?_⟩⟩
  · rw [exec_shl_of_nonneg s rd rs1 rs2 h, exec_shr_of_nonneg s rd rs1 rs2 h, shlFn_eq, shrFn_eq]
    exact ⟨rfl, rfl⟩
  · have hnonneg : 0 ≤ (val s rs2).toInt := by omega
    have hwidth : 8 * s.N ≤ (val s rs2).toInt.toNat := by omega
    rw [exec_shl_of_nonneg s rd rs1 rs2 hnonneg, exec_shr_of_nonneg s rd rs1 rs2 hnonneg,
      shlFn_of_width_le hwidth, shrFn_of_width_le hwidth]
    exact ⟨rfl, rfl⟩

end Sys2Proof.Claims
end

section
/-! PROOFS. The carry and borrow loops of the arithmetic engine as arithmetic on the whole value (R150 to
R152), and what SUB and MUL make of them (R157, R158). -/

namespace Sys2Proof.Machine

variable {N : Nat}

/-! ## The loops on cells -/

/-- The step of a loop that carries: the cell keeps `n mod 256`, and the cells above take `n / 256` to
what they hold; what leaves the last cell is lost. -/
theorem cellsVal_cons_of_carry {n m l : Nat} {cs : List Byte}
    (h : cellsVal cs = (m + n / 256) % 256 ^ l) :
    cellsVal (BitVec.ofNat 8 n :: cs) = (n + 256 * m) % 256 ^ (l + 1) := by
  have hcell : (BitVec.ofNat 8 n).toNat = n % 256 := BitVec.toNat_ofNat n 8
  have hhigh : (n + 256 * m) / 256 = m + n / 256 := by omega
  have hlow : (n + 256 * m) % 256 = n % 256 := Nat.add_mul_mod_self_left n 256 m
  rw [cellsVal, h, hcell, Nat.pow_succ', Nat.mod_mul, hhigh, hlow]

/-- One turn of ADD_fn's loop: the cell keeps the low 8 bits of both cells and the carry, and the OR of
the two overflows says whether their sum has a ninth (R151). -/
theorem addCells_cons (carry : Bool) (a b : Byte) (as bs : List Byte) :
    addCells carry (a :: as) (b :: bs) =
      BitVec.ofNat 8 (a.toNat + b.toNat + carry.toNat) ::
        addCells (decide (256 ≤ a.toNat + b.toNat + carry.toNat)) as bs := by
  have ha := a.isLt
  have hb := b.isLt
  have hc := carry.toNat_lt
  have hcell : BitVec.ofNat 8 ((a.toNat + b.toNat) % 2 ^ 8 + carry.toNat) =
      BitVec.ofNat 8 (a.toNat + b.toNat + carry.toNat) := by
    apply BitVec.eq_of_toNat_eq
    rw [BitVec.toNat_ofNat, BitVec.toNat_ofNat, Nat.mod_add_mod]
  have hcarry : (a.toNat + b.toNat) % 2 ^ 8 < a.toNat ∨
      (a.toNat + b.toNat + carry.toNat) % 2 ^ 8 < (a.toNat + b.toNat) % 2 ^ 8 ↔
        256 ≤ a.toNat + b.toNat + carry.toNat := by omega
  simp only [addCells, BitVec.toNat_ofNat, hcell, ← Bool.decide_or, hcarry]

/-- The carry out of a cell, as a number. -/
theorem toNat_decide_carry {n : Nat} (h : n < 512) : (decide (256 ≤ n)).toNat = n / 256 := by
  by_cases hn : 256 ≤ n
  · rw [decide_eq_true hn, Bool.toNat_true]; omega
  · rw [decide_eq_false hn, Bool.toNat_false]; omega

/-- ADD_fn's loop adds what the two lists of cells hold, and the carry (R151). -/
theorem cellsVal_addCells (carry : Bool) (as bs : List Byte) (hl : as.length = bs.length) :
    cellsVal (addCells carry as bs) =
      (cellsVal as + cellsVal bs + carry.toNat) % 256 ^ as.length := by
  induction as generalizing carry bs with
  | nil => exact (Nat.mod_one _).symm
  | cons a as ih =>
    cases bs with
    | nil => simp at hl
    | cons b bs =>
      have hlt : a.toNat + b.toNat + carry.toNat < 512 := by
        have := carry.toNat_lt
        omega
      have hnext := ih (decide (256 ≤ a.toNat + b.toNat + carry.toNat)) bs (Nat.succ.inj hl)
      rw [toNat_decide_carry hlt] at hnext
      rw [addCells_cons, cellsVal_cons_of_carry hnext, List.length_cons, cellsVal, cellsVal]
      congr 1
      ring

/-- INC_fn's loop adds 1: where it stops, no carry is left to add above (R152). -/
theorem cellsVal_incCells (cs : List Byte) :
    cellsVal (incCells cs) = (cellsVal cs + 1) % 256 ^ cs.length := by
  induction cs with
  | nil => exact (Nat.mod_one _).symm
  | cons a as ih =>
    have hnext : cellsVal (if a ≠ 0xFF then as else incCells as) =
        (cellsVal as + (a.toNat + 1) / 256) % 256 ^ as.length := by
      split
      next h =>
        have hlt : a.toNat + 1 < 256 := by have := BitVec.toNat_ne.mp h; bv_omega
        rw [Nat.div_eq_of_lt hlt, Nat.add_zero, Nat.mod_eq_of_lt (cellsVal_lt as)]
      next h =>
        obtain rfl : a = 0xFF := Decidable.not_not.mp h
        exact ih
    rw [incCells, cellsVal_cons_of_carry hnext, List.length_cons, cellsVal]
    congr 1
    ring

/-- DEC_fn's loop adds `256^n - 1`, that is, subtracts 1: a cell that is not 0 hands on a carry in this
sum, which is no borrow (R152). -/
theorem cellsVal_decCells (cs : List Byte) :
    cellsVal (decCells cs) = (cellsVal cs + (256 ^ cs.length - 1)) % 256 ^ cs.length := by
  induction cs with
  | nil => rfl
  | cons a as ih =>
    have hpos : 0 < 256 ^ as.length := by positivity
    have hnext : cellsVal (if a ≠ 0x00 then as else decCells as) =
        (cellsVal as + (256 ^ as.length - 1) + (a.toNat + 255) / 256) % 256 ^ as.length := by
      split
      next h =>
        have hcarry : (a.toNat + 255) / 256 = 1 := by bv_omega
        have hsum : cellsVal as + (256 ^ as.length - 1) + 1 = cellsVal as + 256 ^ as.length := by
          omega
        rw [hcarry, hsum, Nat.add_mod_right, Nat.mod_eq_of_lt (cellsVal_lt as)]
      next h =>
        obtain rfl : a = 0x00 := Decidable.not_not.mp h
        exact ih
    rw [decCells, cellsVal_cons_of_carry hnext, List.length_cons, cellsVal, Nat.pow_succ]
    congr 1
    omega

/-! ## Wrapped integers: the signed and the unsigned reading give one pattern (R150) -/

section Wrapping

variable (a b : Value N)

theorem ofInt_toInt_add : BitVec.ofInt (8 * N) (a.toInt + b.toInt) = a + b := by
  rw [BitVec.ofInt_add, BitVec.ofInt_toInt, BitVec.ofInt_toInt]

theorem ofInt_toInt_sub : BitVec.ofInt (8 * N) (a.toInt - b.toInt) = a - b := by
  rw [Int.sub_eq_add_neg, BitVec.ofInt_add, BitVec.ofInt_neg, BitVec.ofInt_toInt, BitVec.ofInt_toInt,
    sub_eq_add_neg]

theorem ofInt_toInt_mul : BitVec.ofInt (8 * N) (a.toInt * b.toInt) = a * b := by
  rw [BitVec.ofInt_mul, BitVec.ofInt_toInt, BitVec.ofInt_toInt]

theorem ofNat_toNat_add : BitVec.ofNat (8 * N) (a.toNat + b.toNat) = a + b := by
  rw [BitVec.ofNat_add]
  simp only [BitVec.ofNat_toNat, BitVec.setWidth_eq]

theorem ofNat_toNat_mul : BitVec.ofNat (8 * N) (a.toNat * b.toNat) = a * b := by
  rw [BitVec.ofNat_mul]
  simp only [BitVec.ofNat_toNat, BitVec.setWidth_eq]

theorem ofInt_toInt_neg : BitVec.ofInt (8 * N) (-a.toInt) = -a := by
  rw [BitVec.ofInt_neg, BitVec.ofInt_toInt]

theorem ofInt_toInt_add_one : BitVec.ofInt (8 * N) (a.toInt + 1) = a + 1 := by
  rw [BitVec.ofInt_add, BitVec.ofInt_toInt]
  rfl

theorem ofInt_toInt_sub_one : BitVec.ofInt (8 * N) (a.toInt - 1) = a - 1 := by
  rw [Int.sub_eq_add_neg, BitVec.ofInt_add, BitVec.ofInt_neg, BitVec.ofInt_toInt, sub_eq_add_neg]
  rfl

end Wrapping

/-! ## The engine's functions on whole values -/

/-- Cells that hold n modulo `2^W` are the pattern of n. -/
theorem ofCells_eq_ofNat {cs : List Byte} {n : Nat} (h : cellsVal cs = n % 256 ^ N) :
    ofCells N cs = BitVec.ofNat (8 * N) n := by
  apply BitVec.eq_of_toNat_eq
  rw [ofCells_toNat, h, Nat.mod_mod, BitVec.toNat_ofNat, two_pow_width]

theorem addFn_eq (a b : Value N) : addFn a b = a + b := by
  have hcells := cellsVal_addCells false (cells a) (cells b) (by simp)
  rw [length_cells, cellsVal_cells, cellsVal_cells] at hcells
  rw [addFn, ofCells_eq_ofNat hcells]
  exact ofNat_toNat_add a b

theorem incFn_eq (a : Value N) : incFn a = a + 1 := by
  have hcells := cellsVal_incCells (cells a)
  rw [length_cells, cellsVal_cells] at hcells
  rw [incFn, ofCells_eq_ofNat hcells, BitVec.ofNat_add, BitVec.ofNat_toNat, BitVec.setWidth_eq]
  rfl

theorem decFn_eq (a : Value N) : decFn a = a - 1 := by
  have hcells := cellsVal_decCells (cells a)
  have hones : BitVec.ofNat (8 * N) (256 ^ N - 1) = -1 := by
    rw [← two_pow_width]
    exact (BitVec.ofNatLT_eq_ofNat _).symm.trans BitVec.neg_one_eq_allOnes.symm
  rw [length_cells, cellsVal_cells] at hcells
  rw [decFn, ofCells_eq_ofNat hcells, BitVec.ofNat_add, BitVec.ofNat_toNat, BitVec.setWidth_eq, hones,
    sub_eq_add_neg]

theorem negFn_eq (a : Value N) : negFn a = -a := by
  rw [negFn, incFn_eq, notFn_eq]
  exact (BitVec.neg_eq_not_add a).symm

theorem subFn_eq (a b : Value N) : subFn a b = a - b := by
  rw [subFn, addFn_eq, negFn_eq, sub_eq_add_neg]

theorem mulFn_eq (a b : Value N) : mulFn a b = a * b := ofInt_toInt_mul a b

/-- m additions of a add m times a. -/
theorem addTimes_eq (a : Value N) (m : Nat) (acc : Value N) :
    addTimes a m acc = acc + m * a := by
  induction m generalizing acc with
  | zero => simp [addTimes]
  | succ m ih =>
    rw [addTimes, ih, addFn_eq, Nat.cast_succ]
    ring

/-- R158's loop adds a |b| times to 0 and then gives the sum the sign of b: the product. -/
theorem mulSteps_eq (a b : Value N) : mulSteps a b = a * b := by
  have hb : ((sval b : Int) : Value N) = b := BitVec.ofInt_toInt
  have hacc : addTimes a (sval b).natAbs (zeroW N) = (|sval b| : Int) * a := by
    rw [addTimes_eq, ← Int.natCast_natAbs, Int.cast_natCast]
    exact zero_add _
  rw [mulSteps, hacc]
  split
  next hneg => rw [negFn_eq, abs_of_neg hneg, Int.cast_neg, hb]; ring
  next hnonneg => rw [abs_of_nonneg (not_lt.mp hnonneg), hb, mul_comm]

end Sys2Proof.Machine
end

section
/-! PROOFS. The arithmetic engine: its commands' results and the error of DIV and MOD (R153 to R160, R225),
and the laws of its functions (R161). -/

namespace Sys2Proof.Claims

open Sys2Proof.Machine

section ArithmeticEffects

variable (s : State) (rd rs1 rs2 : Reg)

/-- INC (R153). -/
theorem exec_inc : exec (.inc rd rs1) s = wrote s rd (val s rs1 + 1) := by
  rw [← finish_setReg_eq, ← incFn_eq]; rfl

/-- DEC (R154). -/
theorem exec_dec : exec (.dec rd rs1) s = wrote s rd (val s rs1 - 1) := by
  rw [← finish_setReg_eq, ← decFn_eq]; rfl

/-- NEG (R155). -/
theorem exec_neg : exec (.neg rd rs1) s = wrote s rd (-val s rs1) := by
  rw [← finish_setReg_eq, ← negFn_eq]; rfl

/-- ADD (R156). -/
theorem exec_add : exec (.add rd rs1 rs2) s = wrote s rd (val s rs1 + val s rs2) := by
  rw [← finish_setReg_eq, ← addFn_eq]; rfl

/-- SUB (R157). -/
theorem exec_sub : exec (.sub rd rs1 rs2) s = wrote s rd (val s rs1 - val s rs2) := by
  rw [← finish_setReg_eq, ← subFn_eq]; rfl

/-- MUL (R158). -/
theorem exec_mul : exec (.mul rd rs1 rs2) s = wrote s rd (val s rs1 * val s rs2) := by
  rw [← finish_setReg_eq, ← mulFn_eq]; rfl

/-- DIV by zero (R225). -/
theorem exec_div_of_zero (h : val s rs2 = zeroW s.N) : exec (.div rd rs1 rs2) s = errored s 1 :=
  (if_pos h).trans (raise_eq_errored s .divisionByZero)

/-- MOD by zero (R225). -/
theorem exec_mod_of_zero (h : val s rs2 = zeroW s.N) : exec (.mod rd rs1 rs2) s = errored s 1 :=
  (if_pos h).trans (raise_eq_errored s .divisionByZero)

/-- DIV by any other divisor (R159). -/
theorem exec_div_of_ne_zero (h : val s rs2 ≠ zeroW s.N) : exec (.div rd rs1 rs2) s =
    wrote s rd (Config.divFn s.N (val s rs1) (val s rs2)) := by
  rw [← finish_setReg_eq]
  exact if_neg h

/-- MOD by any other divisor (R160). -/
theorem exec_mod_of_ne_zero (h : val s rs2 ≠ zeroW s.N) : exec (.mod rd rs1 rs2) s =
    wrote s rd (Config.modFn s.N (val s rs1) (val s rs2)) := by
  rw [← finish_setReg_eq]
  exact if_neg h

end ArithmeticEffects

/-! ## The obligations -/

/-- Settles O37: each loop is an operation on the whole value, by induction on the cells, and that
operation is the wrapped one on integers. -/
theorem cellEngineWraps : Obligations.CellEngineWraps := by
  unfold Obligations.CellEngineWraps
  intro N a b
  rw [ofInt_toInt_add, ofNat_toNat_add, ofInt_toInt_add_one, ofInt_toInt_sub_one, ofInt_toInt_neg]
  exact ⟨addFn_eq a b, addFn_eq a b, incFn_eq a, decFn_eq a, negFn_eq a⟩

/-- Settles O38: the three rows, and the carry loops as arithmetic on the whole value. -/
theorem unaryArithmeticCommands : Obligations.UnaryArithmeticCommands := by
  unfold Obligations.UnaryArithmeticCommands
  refine ⟨rowDecodes_of_mem "inc" (by decide) fun _ _ => rfl,
    rowDecodes_of_mem "dec" (by decide) fun _ _ => rfl,
    rowDecodes_of_mem "neg" (by decide) fun _ _ => rfl, fun s rd rs1 => ?_⟩
  rw [ofInt_toInt_add_one, ofInt_toInt_sub_one, ofInt_toInt_neg]
  exact ⟨exec_inc s rd rs1, exec_dec s rd rs1, exec_neg s rd rs1⟩

/-- Settles O39: the two rows; SUB's addition of the negated subtrahend is the difference. -/
theorem additionAndSubtractionCommands : Obligations.AdditionAndSubtractionCommands := by
  unfold Obligations.AdditionAndSubtractionCommands
  refine ⟨rowDecodes_of_mem "add" (by decide) fun _ _ => rfl,
    rowDecodes_of_mem "sub" (by decide) fun _ _ => rfl, fun s rd rs1 rs2 => ?_⟩
  rw [ofInt_toInt_add, ofInt_toInt_sub]
  exact ⟨exec_add s rd rs1 rs2, exec_sub s rd rs1 rs2⟩

/-- Settles O40: the row; both readings of the operands, and the repeated additions by induction on |b|,
give the product of the patterns. -/
theorem multiplicationCommand : Obligations.MultiplicationCommand := by
  unfold Obligations.MultiplicationCommand
  refine ⟨rowDecodes_of_mem "mul" (by decide) fun _ _ => rfl, fun s rd rs1 rs2 => ?_⟩
  have hmul := exec_mul s rd rs1 rs2
  rw [ofInt_toInt_mul, ofNat_toNat_mul, mulSteps_eq]
  exact ⟨hmul, hmul, hmul⟩

/-- Settles O41: the two rows, and a divisor that is ZERO_W or not. -/
theorem divisionCommands : Obligations.DivisionCommands := by
  unfold Obligations.DivisionCommands
  refine ⟨rowDecodes_of_mem "div" (by decide) fun _ _ => rfl,
    rowDecodes_of_mem "mod" (by decide) fun _ _ => rfl, fun s rd rs1 rs2 => ?_⟩
  have hzero : (val s rs2).toNat = 0 ↔ val s rs2 = zeroW s.N :=
    BitVec.toNat_inj (y := zeroW s.N)
  rw [ne_eq, hzero]
  exact ⟨fun h => ⟨exec_div_of_zero s rd rs1 rs2 h, exec_mod_of_zero s rd rs1 rs2 h⟩,
    fun h => ⟨exec_div_of_ne_zero s rd rs1 rs2 h, exec_mod_of_ne_zero s rd rs1 rs2 h⟩⟩

/-- Settles O42: on whole values these are the laws of arithmetic modulo `2^W`, where `-MIN = MIN` and
`-x = NOT x + 1`. -/
theorem cellEngineLaws : Obligations.CellEngineLaws := by
  unfold Obligations.CellEngineLaws
  intro N
  have hone : oneW N = 1 := rfl
  have hmin : -minW N = minW N := BitVec.neg_intMin
  have hmax : maxW N + 1 = -minW N := (BitVec.neg_eq_not_add (minW N)).symm
  have htwo : enc N 2 = zeroW N + 1 + 1 := by
    rw [show zeroW N = 0 from rfl, zero_add]
    exact BitVec.ofInt_add 1 1
  simp only [addFn_eq, negFn_eq, incFn_eq, hone]
  refine ⟨add_comm, add_neg_cancel, hmax.trans hmin, ?_, neg_neg, hmin, htwo.symm⟩
  calc minW N + -1 = -minW N + -1 := by rw [hmin]
    _ = maxW N + 1 + -1 := by rw [hmax]
    _ = maxW N := add_neg_cancel_right _ _

end Sys2Proof.Claims
end

section
/-! PROOFS. The comparison engine: the cell comparisons as comparisons of the signed values (R180, R181), the
commands' results (R181 to R185) and the order laws (R186). -/

namespace Sys2Proof.Machine

variable {N : Nat}

/-! ## Unsigned comparison, the most significant cells first -/

/-- The high digits decide unless they are equal, and then the low ones do. -/
theorem decide_add_mul_lt {p lo lo' : Nat} (hi hi' : Nat) (hlo : lo < p) (hlo' : lo' < p) :
    decide (lo + p * hi < lo' + p * hi') =
      if hi ≠ hi' then decide (hi < hi') else decide (lo < lo') := by
  obtain hlt | rfl | hgt := lt_trichotomy hi hi'
  · have hmul : p * (hi + 1) ≤ p * hi' := Nat.mul_le_mul_left p hlt
    rw [Nat.mul_succ] at hmul
    rw [if_pos hlt.ne, decide_eq_true hlt, decide_eq_true (by omega)]
  · rw [if_neg (not_not.mpr rfl), decide_eq_decide]
    exact Nat.add_lt_add_iff_right
  · have hmul : p * (hi' + 1) ≤ p * hi := Nat.mul_le_mul_left p hgt
    rw [Nat.mul_succ] at hmul
    rw [if_pos hgt.ne', decide_eq_false hgt.not_gt, decide_eq_false (by omega)]

/-- Step 3 of LT_fn compares what the two lists of cells hold (R180). -/
theorem ltCells_eq (as bs : List Byte) (hl : as.length = bs.length) :
    ltCells as bs = decide (cellsVal as.reverse < cellsVal bs.reverse) := by
  induction as generalizing bs with
  | nil =>
    obtain rfl : bs = [] := List.eq_nil_of_length_eq_zero hl.symm
    rfl
  | cons a as ih =>
    cases bs with
    | nil => simp at hl
    | cons b bs =>
      have htail : as.length = bs.length := Nat.succ.inj hl
      have has := cellsVal_lt as.reverse
      have hbs := cellsVal_lt bs.reverse
      rw [List.length_reverse] at has hbs
      rw [← htail] at hbs
      rw [ltCells, ih bs htail, List.reverse_cons, List.reverse_cons, cellsVal_append, cellsVal_append,
        List.length_reverse, List.length_reverse, ← htail, decide_add_mul_lt _ _ has hbs]
      exact if_congr BitVec.toNat_ne rfl rfl

/-! ## The top cell -/

/-- The sign bit is bit 7 of the top cell (R13, R14). -/
theorem signBit_eq_topCell (a : Value N) : signBit a = (topCell a).getLsbD 7 := by
  cases N with
  | zero => rw [BitVec.eq_nil a]; rfl
  | succ n => simp [signBit, topCell, cell, Nat.mul_succ]

/-- A value is its cells below the top one, and the top cell. -/
theorem toNat_eq_low_add_top (a : Value N) :
    a.toNat = a.toNat % 256 ^ (N - 1) + 256 ^ (N - 1) * (topCell a).toNat := by
  have hlt : a.toNat / 256 ^ (N - 1) < 256 := by
    apply Nat.div_lt_of_lt_mul
    calc a.toNat < 256 ^ N := two_pow_width N ▸ a.isLt
      _ ≤ 256 ^ (N - 1 + 1) := Nat.pow_le_pow_right (by decide) (by omega)
  rw [topCell_eq, cell_toNat, Nat.mod_eq_of_lt hlt, Nat.mod_add_div]

/-- The cells below the top one hold the value modulo `256^(N-1)`. -/
theorem cellsVal_take_cells (a : Value N) :
    cellsVal ((cells a).take (N - 1)) = a.toNat % 256 ^ (N - 1) := by
  rw [cells, ← List.map_take, List.take_range, Nat.min_eq_left (Nat.sub_le N 1), cellsVal_take]

/-! ## The results as comparisons of signed values -/

/-- With one sign, steps 2 to 4 of LT_fn compare the values as unsigned integers: clearing bit 7 of both top
cells does not change their order (R180). -/
theorem ltFn_of_signBit_eq {a b : Value N} (h : signBit a = signBit b) :
    ltFn a b = decide (a.toNat < b.toNat) := by
  have hmask (c : Value N) : (topCell c &&& 0x7F).toNat = (topCell c).toNat % 128 :=
    (BitVec.toNat_and _ _).trans (Nat.and_two_pow_sub_one_eq_mod _ 7)
  have hbit : (topCell a).toNat / 128 = (topCell b).toNat / 128 := by
    rw [← toNat_getLsbD_seven, ← toNat_getLsbD_seven, ← signBit_eq_topCell, ← signBit_eq_topCell, h]
  have hne : (topCell a).toNat % 128 ≠ (topCell b).toNat % 128 ↔
      (topCell a).toNat ≠ (topCell b).toNat := by omega
  have hlt : (topCell a).toNat % 128 < (topCell b).toNat % 128 ↔
      (topCell a).toNat < (topCell b).toNat := by omega
  have hpos : 0 < 256 ^ (N - 1) := by positivity
  rw [toNat_eq_low_add_top a, toNat_eq_low_add_top b,
    decide_add_mul_lt _ _ (Nat.mod_lt _ hpos) (Nat.mod_lt _ hpos), ltFn, if_neg (not_not.mpr h),
    ltCells_eq _ _ (by simp), List.reverse_reverse, List.reverse_reverse, cellsVal_take_cells,
    cellsVal_take_cells]
  simp only [hmask, hne, hlt]

/-- LT_fn compares the signed values: with two signs the negative one is below (R180). -/
theorem ltFn_eq (a b : Value N) : ltFn a b = decide (a.toInt < b.toInt) := by
  by_cases h : signBit a = signBit b
  · rw [ltFn_of_signBit_eq h]
    rw [signBit, signBit, ← BitVec.msb_eq_getLsbD_last, ← BitVec.msb_eq_getLsbD_last] at h
    exact (BitVec.slt_eq_ult_of_msb_eq h).symm
  · rw [ltFn, if_pos h]
    have ha : signBit a = decide (a.toInt < 0) := isNegFn_eq a
    have hb : signBit b = decide (b.toInt < 0) := isNegFn_eq b
    rw [ha, hb, decide_eq_decide] at h
    rw [ha, decide_eq_decide]
    omega

theorem eqFn_eq (a b : Value N) : eqFn a b = decide (a.toInt = b.toInt) := by
  have hcells : cells a = cells b ↔ a.toInt = b.toInt :=
    ⟨fun h => congrArg _ (cells_inj a b h), fun h => congrArg _ (BitVec.toInt_inj.mp h)⟩
  rw [eqFn, beq_eq_decide, decide_eq_decide, hcells]

theorem leFn_eq (a b : Value N) : leFn a b = decide (a.toInt ≤ b.toInt) := by
  rw [leFn, ltFn_eq, eqFn_eq, ← Bool.decide_or, decide_eq_decide, le_iff_lt_or_eq]

theorem gtFn_eq (a b : Value N) : gtFn a b = decide (b.toInt < a.toInt) := ltFn_eq b a

theorem geFn_eq (a b : Value N) : geFn a b = decide (b.toInt ≤ a.toInt) := by
  rw [geFn, ltFn_eq, ← decide_not, decide_eq_decide, not_lt]

end Sys2Proof.Machine

namespace Sys2Proof.Claims

open Sys2Proof.Machine

section ComparisonEffects

variable (s : State) (rs1 rs2 : Reg)

/-- EQ (R181). -/
theorem exec_eq : exec (.eq rs1 rs2) s =
    wroteF s (decide ((val s rs1).toInt = (val s rs2).toInt)) := by
  rw [← eqFn_eq, ← finish_setF_eq]; rfl

/-- LT (R182). -/
theorem exec_lt : exec (.lt rs1 rs2) s =
    wroteF s (decide ((val s rs1).toInt < (val s rs2).toInt)) := by
  rw [← ltFn_eq, ← finish_setF_eq]; rfl

/-- LE (R183). -/
theorem exec_le : exec (.le rs1 rs2) s =
    wroteF s (decide ((val s rs1).toInt ≤ (val s rs2).toInt)) := by
  rw [← leFn_eq, ← finish_setF_eq]; rfl

/-- GT (R184). -/
theorem exec_gt : exec (.gt rs1 rs2) s =
    wroteF s (decide ((val s rs2).toInt < (val s rs1).toInt)) := by
  rw [← gtFn_eq, ← finish_setF_eq]; rfl

/-- GE (R185). -/
theorem exec_ge : exec (.ge rs1 rs2) s =
    wroteF s (decide ((val s rs2).toInt ≤ (val s rs1).toInt)) := by
  rw [← geFn_eq, ← finish_setF_eq]; rfl

end ComparisonEffects

/-! ## The obligations -/

/-- Settles O43: the five rows, and each cell comparison as the comparison of the signed values. -/
theorem comparisonCommands : Obligations.ComparisonCommands := by
  unfold Obligations.ComparisonCommands
  exact ⟨rowDecodes_of_mem "eq" (by decide) fun _ _ => rfl,
    rowDecodes_of_mem "lt" (by decide) fun _ _ => rfl,
    rowDecodes_of_mem "le" (by decide) fun _ _ => rfl,
    rowDecodes_of_mem "gt" (by decide) fun _ _ => rfl,
    rowDecodes_of_mem "ge" (by decide) fun _ _ => rfl,
    fun s rs1 rs2 => ⟨exec_eq s rs1 rs2, exec_lt s rs1 rs2, exec_le s rs1 rs2, exec_gt s rs1 rs2,
      exec_ge s rs1 rs2⟩⟩

/-- Settles O44: LT_fn is the order of the signed values, and values that are the same integer are equal. -/
theorem lessThanIsATotalOrder : Obligations.LessThanIsATotalOrder := by
  unfold Obligations.LessThanIsATotalOrder
  intro N a b c
  simp only [ltFn_eq, decide_eq_true_eq, decide_eq_false_iff_not]
  refine ⟨?_, lt_irrefl _, fun ⟨hab, hba⟩ => lt_asymm hab hba, lt_trans, lt_of_lt_of_le⟩
  obtain hlt | heq | hgt := lt_trichotomy a.toInt b.toInt
  · exact .inl ⟨hlt, fun h => hlt.ne (congrArg _ h), hlt.not_gt⟩
  · exact .inr (.inl ⟨heq.not_lt, BitVec.toInt_inj.mp heq, heq.not_gt⟩)
  · exact .inr (.inr ⟨hgt.not_gt, fun h => hgt.ne' (congrArg _ h), hgt⟩)

end Sys2Proof.Claims
end

section
/-! PROOFS. The native value that an unsigned LDN loads (R202), BOOL's cell test as a test of the value
(R203), and LDN's eight rows as rows of commands (R85, R88). -/

namespace Sys2Proof.Machine

variable {N : Nat}

/-- LDN of an unsigned native type zero-extends the low k bytes of DIN. -/
theorem ofCells_nativeCells_unsigned {k : Nat} (hk : k ≤ N) (din : Din) :
    ofCells N (nativeCells N k false din) = (din.setWidth (8 * k)).setWidth (8 * N) := by
  apply BitVec.eq_of_toNat_eq
  rw [ofCells_toNat, cellsVal_nativeCells hk, BitVec.toNat_setWidth, BitVec.toNat_setWidth,
    two_pow_width, two_pow_width]
  rfl

theorem cells_zero : cells (0 : Value N) = List.replicate N 0x00 := by
  apply cellsVal_inj _ _ (by simp)
  rw [cellsVal_cells, cellsVal_replicate_zero]
  exact BitVec.toNat_zero

theorem forall_cells_eq_zero_iff (a : Value N) : (∀ c ∈ cells a, c = 0) ↔ a = 0 := by
  constructor
  · intro h
    apply cells_inj
    rw [cells_zero, List.eq_replicate_of_mem h, length_cells]
  · rintro rfl c hc
    rw [cells_zero] at hc
    exact List.eq_of_mem_replicate hc

/-- Some cell is nonzero exactly if the value is (R203). -/
theorem boolFn_eq (a : Value N) : boolFn a = decide (a.toInt ≠ 0) := by
  have hint : a.toInt = 0 ↔ a = 0 := by rw [← BitVec.toInt_inj]; simp
  rw [Bool.eq_iff_iff, decide_eq_true_iff, ne_eq, hint, ← forall_cells_eq_zero_iff]
  simp [boolFn]

end Sys2Proof.Machine

namespace Sys2Proof.Claims

open Sys2Proof.Machine

/-- S and wcode are read back from the bits they are. -/
theorem variantBits_inj {f g : Fields} (h : variantBits f = variantBits g) :
    f.s = g.s ∧ f.wcode = g.wcode := by
  have hbits : ∀ (s s' : Bool) (w w' : BitVec 2), (0 : BitVec 29) ++ (BitVec.ofBool s ++ w) =
      (0 : BitVec 29) ++ (BitVec.ofBool s' ++ w') → s = s' ∧ w = w' := by decide
  exact hbits _ _ _ _ h

/-- A word of an LDN row makes the command of the S and wcode in the row's pattern. -/
theorem ldnOf_fields_of_match {cmd pattern : Cmd} (hmatch : cmd &&& 0xFC3FFFFF = pattern) (din : Din) :
    ldnOf (fields cmd din) = ldnOf { fields pattern din with rd := rdOf cmd } := by
  have hmask : (0xFC3FFFFF : Cmd) &&& variantMask = variantMask := by decide
  have hvariant : variantBits (fields cmd din) = variantBits (fields pattern din) := by
    rw [← and_variantMask, ← and_variantMask, ← hmatch, BitVec.and_assoc, hmask]
  obtain ⟨hs, hwcode⟩ := variantBits_inj hvariant
  simp only [ldnOf, hs, hwcode]
  rfl

/-- A row of LDN's opcode decodes to the command of the variant in its pattern. -/
theorem rowDecodes_ldn {pattern : Cmd} {command : Reg → Din → Instr} (hop : opField pattern = 0x22)
    (hmbz : pattern &&& Form.ld.mbz = 0)
    (hcommand : ∀ rd din, ldnOf { fields pattern din with rd := rd } = command rd din) :
    RowDecodes 0xFC3FFFFF pattern fun c d => command (rdOf c) d := by
  have hmap : opcodeMap (opField pattern) = some (.ld, ldnOf) := by rw [hop]; rfl
  intro cmd din hmatch
  rw [decode_of_match hmatch hmap (by decide) (by decide) hmbz, ldnOf_fields_of_match hmatch,
    hcommand]

end Sys2Proof.Claims
end

section
/-! PROOFS. The construction and conversion commands: what each writes (R200 to R203), and the error of
LDN (R223). -/

namespace Sys2Proof.Claims

open Sys2Proof.Machine

section ConstructionEffects

variable (s : State) (rd rs1 : Reg) (din : Din)

/-- ONE writes 1 (R201). -/
theorem exec_one : exec (.one rd) s = wrote s rd 1 := rfl

/-- BOOL writes whether the operand is not 0 (R203). -/
theorem exec_bool : exec (.bool rs1) s = wroteF s (decide ((val s rs1).toInt ≠ 0)) := by
  rw [← boolFn_eq, ← finish_setF_eq]; rfl

/-- A native type that fits is loaded as its value, extended by its signedness (R202). -/
theorem loadNative_of_le {k : Nat} (hpos : 0 < k) (hk : k ≤ s.N) (signed : Bool) :
    loadNative k signed rd din s = wrote s rd
      (if signed then (din.setWidth (8 * k)).signExtend (8 * s.N)
       else (din.setWidth (8 * k)).setWidth (8 * s.N)) := by
  rw [loadNative, if_neg (Nat.not_lt.mpr hk), finish_setReg_eq]
  cases signed with
  | false => rw [ofCells_nativeCells_unsigned hk]; rfl
  | true => rw [ofCells_nativeCells_signed hpos hk]; rfl

/-- A native type wider than the register (R223). -/
theorem loadNative_of_lt {k : Nat} (hk : s.N < k) (signed : Bool) :
    loadNative k signed rd din s = errored s 5 :=
  (if_pos hk).trans (raise_eq_errored s .widthTooSmall)

end ConstructionEffects

/-- A command that is LDN of k bytes does what R202 and R223 say. -/
theorem ldnLoads_of_exec {k : Nat} {signed : Bool} {command : Reg → Din → Instr} (hpos : 0 < k)
    (hexec : ∀ rd din s, exec (command rd din) s = loadNative k signed rd din s) :
    LdnLoads k signed command := by
  intro s rd din
  rw [hexec]
  exact ⟨fun hk => loadNative_of_le s rd din hpos hk signed,
    fun hk => loadNative_of_lt s rd din hk signed⟩

/-! ## The obligations -/

/-- Settles O46: the eight variants, each by its row's S and wcode, and by its k and signedness. -/
theorem nativeLoadCommands : Obligations.NativeLoadCommands := by
  unfold Obligations.NativeLoadCommands
  refine ⟨?_, ?_, ?_, ?_, ?_, ?_, ?_, ?_⟩ <;>
    exact ⟨rowDecodes_ldn (by decide) (by decide) fun _ _ => rfl,
      ldnLoads_of_exec (by decide) fun _ _ _ => rfl⟩

/-- Settles O47: the row, and a nonzero cell as a nonzero value. -/
theorem booleanConversionCommand : Obligations.BooleanConversionCommand := by
  unfold Obligations.BooleanConversionCommand
  exact ⟨rowDecodes_of_mem "bool" (by decide) fun _ _ => rfl, exec_bool⟩

/-- Settles O45. -/
theorem constantCommands : Obligations.ConstantCommands := by
  unfold Obligations.ConstantCommands
  exact ⟨rowDecodes_of_mem "zero" (by decide) fun _ _ => rfl,
    rowDecodes_of_mem "one" (by decide) fun _ _ => rfl,
    fun s rd => ⟨exec_zero s rd, exec_one s rd⟩⟩

end Sys2Proof.Claims
end

section
/-! PROOFS. The exception model: a command completes or raises an error, and an error changes ST alone
(R220). -/

namespace Sys2Proof.Machine

/-- A command has two ways to end: it completes, leaving some block, or it raises an error. -/
theorem Ends.eq_finish_or_eq_raise {i : Instr} {s : State} {o : Result} (h : Ends i s o) :
    (∃ b, o = s.finish b) ∨ ∃ e, o = s.raise e := by
  cases h with
  | raise e => exact .inr ⟨e, rfl⟩
  | reg rd v _ => exact .inl ⟨s.block.setReg rd v, rfl⟩
  | flag v _ => exact .inl ⟨s.block.setF v, rfl⟩
  | byte v _ => exact .inl ⟨s.block.setBr v, rfl⟩

/-- So has every issued word, since one that decodes to no command raises ILLEGAL_COMMAND (R222). -/
theorem runCommand_eq_finish_or_eq_raise (cmd : Cmd) (din : Din) (s : State) :
    (∃ b, runCommand cmd din s = s.finish b) ∨ ∃ e, runCommand cmd din s = s.raise e := by
  rcases runCommand_cases cmd din s with ⟨i, _, hrun⟩ | ⟨_, _, hrun⟩
  · rw [hrun]; exact (exec_ends s i).eq_finish_or_eq_raise
  · exact .inr ⟨.illegalCommand, hrun⟩

end Sys2Proof.Machine

namespace Sys2Proof.Claims

open Sys2Proof.Machine

/-- Settles O20: completion shows code 0, so a nonzero code is an error's, and an error writes ST alone. -/
theorem errorsChangeOnlyStatus : Obligations.ErrorsChangeOnlyStatus := by
  unfold Obligations.ErrorsChangeOnlyStatus
  intro s cmd din
  obtain ⟨b, hrun⟩ | ⟨e, hrun⟩ := runCommand_eq_finish_or_eq_raise cmd din s
  · exact ⟨b.complete, hrun.trans (s.finish_eq b), fun hcode => absurd b.complete_code hcode⟩
  · exact ⟨s.block.afterError e, hrun.trans (s.raise_eq e), fun _ => rfl⟩

end Sys2Proof.Claims
end

section
/-! PROOFS. RESET during a command: the command is abandoned, and the reset state follows (R250, R251). -/

namespace Sys2Proof.Machine

section AbandonedCommand

variable {s : State} {rest : List HostEvent}

/-- A legal state stops no step before its oldest event is taken (R6, R221). -/
theorem State.Legal.step_eq_takeEvent {e : HostEvent} (hlegal : s.Legal) (hport : s.port = e :: rest) :
    step s = takeEvent e { s with port := rest } := by
  obtain ⟨hN, hcode, _⟩ := hlegal
  exact step_event s e rest hN.ne' hcode hport

/-- RESET's rise leaves N and ST, so the block that it holds is legal. -/
theorem State.Legal.resetRises (hlegal : s.Legal) : s.resetRises.Legal := hlegal

/-- A command that RESET interrupts leaves what RESET's rise alone leaves: the word and DIN play no part
(R251). -/
theorem step_of_issueThenReset {cmd : Cmd} {din : Din} (hlegal : s.Legal) (hready : s.ready = true)
    (hport : s.port = .issueThenReset cmd din :: rest) :
    step s = .next { s with port := rest }.resetRises :=
  (hlegal.step_eq_takeEvent hport).trans (if_pos hready)

/-- RESET falling in a block that it holds is the step to the reset state of its width (R250). -/
theorem step_of_reset_falls (hlegal : s.Legal) (hready : s.ready = false)
    (hport : s.port = .reset false :: rest) :
    step s = .next { State.resetOf s.N with port := rest } :=
  (hlegal.step_eq_takeEvent hport).trans
    (congrArg Host.Outcome.next (State.resetFalls_of_not_ready { s with port := rest } hready))

end AbandonedCommand

end Sys2Proof.Machine

namespace Sys2Proof.Claims

open Sys2Proof.Machine

/-- Settles O12: the interrupted command is RESET's rise, and RESET's fall clears whatever block it finds. -/
theorem interruptedCommandLeavesNothing : Obligations.InterruptedCommandLeavesNothing := by
  unfold Obligations.InterruptedCommandLeavesNothing
  intro s cmd din rest hlegal hready hport
  have hrise := step_of_issueThenReset hlegal hready hport
  have hheld : State.Legal { s with port := .reset false :: rest }.resetRises := hlegal.resetRises
  exact ⟨_, hrise, State.resetRises_ready _, step_of_reset_falls hheld rfl rfl⟩

end Sys2Proof.Claims
end

section
/-! PROOFS. A command word as its fields: what each field of a word reads, a form's must-be-zero bits field
by field (R82 to R85), and the two round trips of the decoder and the encoder. -/

namespace Sys2Proof

section Words

variable (op : BitVec 6) (rd rs1 rs2 : Reg) (aux : BitVec 14) (din : Din)

/-! ## Reading the fields of a word -/

/-- The operand fields that go with these register numbers, this aux field and this DIN (R82, R85). -/
def wordFields : Fields :=
  ⟨rd, rs1, rs2, aux.extractLsb' 0 2, aux.getLsbD 2, aux.extractLsb' 0 8, din⟩

/-- A bit field above the low part of a word lies in the high part. -/
theorem extractLsb'_of_high {m n start len : Nat} {hi : BitVec m} {lo : BitVec n} {v : BitVec len}
    (h : hi.extractLsb' start len = v) : (hi ++ lo).extractLsb' (n + start) len = v := by
  rw [BitVec.extractLsb'_append_eq_of_le (Nat.le_add_right n start), Nat.add_sub_cancel_left, h]

theorem opField_word : opField (word op rd rs1 rs2 aux) = op :=
  extractLsb'_of_high (start := 12) <| extractLsb'_of_high (start := 8) <|
    extractLsb'_of_high (start := 4) BitVec.extractLsb'_append_eq_left

theorem regField_word_rd : regField (word op rd rs1 rs2 aux) 22 = rd :=
  congrArg BitVec.toFin <| extractLsb'_of_high (start := 8) <| extractLsb'_of_high (start := 4) <|
    extractLsb'_of_high (start := 0) BitVec.extractLsb'_append_eq_right

theorem regField_word_rs1 : regField (word op rd rs1 rs2 aux) 18 = rs1 :=
  congrArg BitVec.toFin <| extractLsb'_of_high (start := 4) <|
    extractLsb'_of_high (start := 0) BitVec.extractLsb'_append_eq_right

theorem regField_word_rs2 : regField (word op rd rs1 rs2 aux) 14 = rs2 :=
  congrArg BitVec.toFin <| extractLsb'_of_high (start := 0) BitVec.extractLsb'_append_eq_right

theorem extractLsb'_word {len : Nat} (h : len ≤ 14) :
    (word op rd rs1 rs2 aux).extractLsb' 0 len = aux.extractLsb' 0 len :=
  BitVec.extractLsb'_append_eq_of_add_le (by omega)

theorem getLsbD_word {j : Nat} (h : j < 14) : (word op rd rs1 rs2 aux).getLsbD j = aux.getLsbD j :=
  BitVec.getLsbD_append.trans (if_pos h)

theorem fields_word : fields (word op rd rs1 rs2 aux) din = wordFields rd rs1 rs2 aux din := by
  rw [fields, regField_word_rd, regField_word_rs1, regField_word_rs2, extractLsb'_word _ _ _ _ _ (by decide),
    extractLsb'_word _ _ _ _ _ (by decide), getLsbD_word _ _ _ _ _ (by decide), wordFields]

/-- A word is put together again from its fields (R82, R93). -/
theorem word_of_fields (cmd : Cmd) : word (opField cmd) (regField cmd 22) (regField cmd 18)
    (regField cmd 14) (cmd.extractLsb' 0 14) = cmd := by
  have h22 : opField cmd ++ (BitVec.ofFin (regField cmd 22) : BitVec 4) = cmd.extractLsb' 22 10 :=
    BitVec.extractLsb'_append_extractLsb'_eq_extractLsb' rfl
  have h18 : cmd.extractLsb' 22 10 ++ (BitVec.ofFin (regField cmd 18) : BitVec 4) =
      cmd.extractLsb' 18 14 := BitVec.extractLsb'_append_extractLsb'_eq_extractLsb' rfl
  have h14 : cmd.extractLsb' 18 14 ++ (BitVec.ofFin (regField cmd 14) : BitVec 4) =
      cmd.extractLsb' 14 18 := BitVec.extractLsb'_append_extractLsb'_eq_extractLsb' rfl
  rw [word, h22, h18, h14]
  exact (BitVec.extractLsb'_append_extractLsb'_eq_extractLsb' rfl).trans BitVec.extractLsb'_eq_self

theorem wordFields_of_fields (cmd : Cmd) : wordFields (regField cmd 22) (regField cmd 18)
    (regField cmd 14) (cmd.extractLsb' 0 14) din = fields cmd din := by
  rw [← fields_word (opField cmd), word_of_fields]

end Words

/-! ## Must-be-zero bits (R84) -/

/-- The must-be-zero bits of a form are 0, field by field (R84). -/
def Form.Clear (rd rs1 rs2 : Reg) (aux : BitVec 14) : Form → Prop
  | .rrr => aux = 0
  | .rr => rs2 = 0 ∧ aux = 0
  | .cc => rd = 0 ∧ aux = 0
  | .q => rd = 0 ∧ rs2 = 0 ∧ aux = 0
  | .d => rs1 = 0 ∧ rs2 = 0 ∧ aux = 0
  | .ld => rs1 = 0 ∧ rs2 = 0 ∧ aux.extractLsb' 3 11 = 0
  | .sb => rs1 = 0 ∧ rs2 = 0 ∧ aux.extractLsb' 8 6 = 0

theorem append_eq_zero_iff {m n : Nat} {x : BitVec m} {y : BitVec n} :
    x ++ y = 0#(m + n) ↔ x = 0#m ∧ y = 0#n := by
  constructor
  · intro h
    have hx : (x ++ y).extractLsb' n m = x := BitVec.extractLsb'_append_eq_left
    have hy : (x ++ y).extractLsb' 0 n = y := BitVec.extractLsb'_append_eq_right
    rw [h, BitVec.extractLsb'_zero] at hx hy
    exact ⟨hx.symm, hy.symm⟩
  · rintro ⟨rfl, rfl⟩
    exact BitVec.zero_append_zero

/-- Two words have no common bit exactly if no two of their fields have. -/
theorem word_and_word_eq_zero_iff {op op' : BitVec 6} {rd rs1 rs2 rd' rs1' rs2' : Reg}
    {aux aux' : BitVec 14} : word op rd rs1 rs2 aux &&& word op' rd' rs1' rs2' aux' = 0 ↔
      (((op &&& op' = 0 ∧ (BitVec.ofFin rd &&& BitVec.ofFin rd' : BitVec 4) = 0) ∧
      (BitVec.ofFin rs1 &&& BitVec.ofFin rs1' : BitVec 4) = 0) ∧
      (BitVec.ofFin rs2 &&& BitVec.ofFin rs2' : BitVec 4) = 0) ∧ aux &&& aux' = 0 := by
  have hand : word op rd rs1 rs2 aux &&& word op' rd' rs1' rs2' aux' =
      (op &&& op') ++ (BitVec.ofFin rd &&& BitVec.ofFin rd' : BitVec 4) ++
        (BitVec.ofFin rs1 &&& BitVec.ofFin rs1' : BitVec 4) ++
        (BitVec.ofFin rs2 &&& BitVec.ofFin rs2' : BitVec 4) ++ (aux &&& aux') := by
    rw [← BitVec.and_append, ← BitVec.and_append, ← BitVec.and_append, ← BitVec.and_append]
    rfl
  rw [hand]
  exact append_eq_zero_iff.trans <| and_congr_left' <| append_eq_zero_iff.trans <| and_congr_left' <|
    append_eq_zero_iff.trans <| and_congr_left' append_eq_zero_iff

/-- The high bits of a field are 0 under the mask that keeps them and no others. -/
theorem and_high_eq_zero_iff {m n : Nat} (x : BitVec (m + n)) :
    x &&& (BitVec.allOnes m ++ 0#n) = 0#(m + n) ↔ x.extractLsb' n m = 0#m := by
  have hx : x &&& (BitVec.allOnes m ++ 0#n) = x.extractLsb' n m ++ 0#n := by
    conv_lhs => rw [← BitVec.extractLsb'_append_extractLsb' (x := x)]
    rw [BitVec.and_append, BitVec.and_allOnes, BitVec.and_zero]
  rw [hx, append_eq_zero_iff, and_iff_left rfl]

theorem reg_and_ones_eq_zero_iff : ∀ r : Reg,
    (BitVec.ofFin r &&& BitVec.ofFin (15 : Reg) : BitVec 4) = 0 ↔ r = 0 := by
  decide

/-! The mask of each form, as a word: 1 in the must-be-zero fields. -/

theorem Form.mbz_rrr : Form.rrr.mbz = word 0 0 0 0 0x3FFF := rfl
theorem Form.mbz_rr : Form.rr.mbz = word 0 0 0 15 0x3FFF := rfl
theorem Form.mbz_cc : Form.cc.mbz = word 0 15 0 0 0x3FFF := rfl
theorem Form.mbz_q : Form.q.mbz = word 0 15 0 15 0x3FFF := rfl
theorem Form.mbz_d : Form.d.mbz = word 0 0 15 15 0x3FFF := rfl
theorem Form.mbz_ld : Form.ld.mbz = word 0 0 15 15 0x3FF8 := rfl
theorem Form.mbz_sb : Form.sb.mbz = word 0 0 15 15 0x3F00 := rfl

/-- A word passes its form's mask exactly if the form's must-be-zero fields are 0. -/
theorem word_and_mbz_eq_zero_iff {op : BitVec 6} {rd rs1 rs2 : Reg} {aux : BitVec 14} {form : Form} :
    word op rd rs1 rs2 aux &&& form.mbz = 0 ↔ form.Clear rd rs1 rs2 aux := by
  have hnone : ∀ r : Reg, (BitVec.ofFin r &&& BitVec.ofFin (0 : Reg) : BitVec 4) = 0 := by decide
  have hop : op &&& 0 = 0 := BitVec.and_zero
  have haux : aux &&& 0x3FFF = aux := BitVec.and_allOnes
  have hld : aux &&& 0x3FF8 = 0 ↔ aux.extractLsb' 3 11 = 0 := and_high_eq_zero_iff (n := 3) aux
  have hsb : aux &&& 0x3F00 = 0 ↔ aux.extractLsb' 8 6 = 0 := and_high_eq_zero_iff (n := 8) aux
  cases form <;>
    simp only [Form.mbz_rrr, Form.mbz_rr, Form.mbz_cc, Form.mbz_q, Form.mbz_d, Form.mbz_ld,
      Form.mbz_sb, Form.Clear, word_and_word_eq_zero_iff, hop, hnone, reg_and_ones_eq_zero_iff, haux,
      hld, hsb, true_and, and_assoc]

/-! ## Both ways -/

section RoundTrips

variable {op : BitVec 6} {rd rs1 rs2 : Reg} {aux : BitVec 14} {din : Din} {form : Form}
  {make : Fields → Instr}

/-- A word of an assigned opcode, with the form's must-be-zero fields 0, is the command of its fields. -/
theorem decode_word (hmap : opcodeMap op = some (form, make)) (hclear : form.Clear rd rs1 rs2 aux) :
    decode (word op rd rs1 rs2 aux) din = .ok (make (wordFields rd rs1 rs2 aux din)) := by
  rw [← opField_word op rd rs1 rs2 aux] at hmap
  exact decode_eq_ok_iff.mpr ⟨form, make, hmap, word_and_mbz_eq_zero_iff.mpr hclear,
    congrArg make (fields_word op rd rs1 rs2 aux din)⟩

/-- A command is decoded from its words where they are those of an entry of the opcode map that makes it. -/
theorem decode_encode_of_map {i : Instr} (hencode : encode i = (word op rd rs1 rs2 aux, din))
    (hmap : opcodeMap op = some (form, make)) (hclear : form.Clear rd rs1 rs2 aux)
    (hmake : make (wordFields rd rs1 rs2 aux din) = i) :
    decode (encode i).1 (encode i).2 = .ok i := by
  rw [hencode, decode_word hmap hclear, hmake]

/-- SETB's aux field is imm8 with zeros above (R84). -/
theorem setbAux_of_clear (h : aux.extractLsb' 8 6 = 0) :
    (0 : BitVec 6) ++ aux.extractLsb' 0 8 = aux := by
  rw [← h]
  exact BitVec.extractLsb'_append_extractLsb' (w := 6) (len := 8)

/-- LDN's aux field is S and wcode with zeros above (R85). -/
theorem ldnAux_of_clear (h : aux.extractLsb' 3 11 = 0) :
    ldnAux (aux.getLsbD 2) (aux.extractLsb' 0 2) = aux := by
  have hs : BitVec.ofBool (aux.getLsbD 2) = aux.extractLsb' 2 1 := by
    ext j hj
    obtain rfl : j = 0 := by omega
    simp
  have hhigh : aux.extractLsb' 3 11 ++ aux.extractLsb' 2 1 = aux.extractLsb' 2 12 :=
    BitVec.extractLsb'_append_extractLsb'_eq_extractLsb' rfl
  rw [ldnAux, hs, ← h, hhigh]
  exact BitVec.extractLsb'_append_extractLsb' (w := 12) (len := 2)

/-- LDN's word is its rd, S and wcode; DIN is its value (R85, R87). -/
theorem encode_ldnOf (f : Fields) : encode (ldnOf f) = (word 0x22 f.rd 0 0 (ldnAux f.s f.wcode), f.din) ∧
    (ldnOf f).readsDin = true := by
  unfold ldnOf
  split <;> rename_i hs hw <;> rw [hs, hw] <;> exact ⟨rfl, rfl⟩

/-- The command that an entry of the opcode map makes of a word's fields has that word, and the DIN where
it reads DIN. -/
theorem encode_of_map {i : Instr} (hmap : opcodeMap op = some (form, make))
    (hclear : form.Clear rd rs1 rs2 aux) (hmake : make (wordFields rd rs1 rs2 aux din) = i) :
    (encode i).1 = word op rd rs1 rs2 aux ∧ (encode i).2 = if i.readsDin then din else 0 := by
  subst hmake
  unfold opcodeMap at hmap
  split at hmap <;> cases hmap
  -- SETB
  case h_6 =>
    obtain ⟨rfl, rfl, himm8⟩ := hclear
    exact ⟨congrArg (word _ _ _ _) (setbAux_of_clear himm8), rfl⟩
  -- LDN
  case h_31 =>
    obtain ⟨rfl, rfl, hvariant⟩ := hclear
    obtain ⟨hencode, hreads⟩ := encode_ldnOf (wordFields rd 0 0 aux din)
    rw [hencode, hreads]
    exact ⟨congrArg (word _ _ _ _) (ldnAux_of_clear hvariant), rfl⟩
  all_goals
    simp only [Form.Clear] at hclear
    simp only [hclear]
    exact ⟨rfl, rfl⟩

end RoundTrips

end Sys2Proof

namespace Sys2Proof.Claims

/-- Settles O6: the word of each command has its opcode and operands in its fields, and zeros in the
must-be-zero fields of its form. -/
theorem decodeOfEncode : Obligations.DecodeOfEncode := by
  unfold Obligations.DecodeOfEncode
  intro i
  cases i
  case and | or | xor | shl | shr | add | sub | mul | div | mod =>
    exact decode_encode_of_map rfl rfl rfl rfl
  case flips | mov | not | shl1 | shr1 | inc | dec | neg | eq | lt | le | gt | ge =>
    exact decode_encode_of_map rfl rfl ⟨rfl, rfl⟩ rfl
  case msb | msbns | isneg | getb | bool | zero | one =>
    exact decode_encode_of_map rfl rfl ⟨rfl, rfl, rfl⟩ rfl
  case ldnU8 | ldnU16 | ldnU32 | ldnU64 | ldnS8 | ldnS16 | ldnS32 | ldnS64 =>
    exact decode_encode_of_map rfl rfl ⟨rfl, rfl, rfl⟩ rfl
  case setb rd idx imm8 =>
    have hhigh : ((0 : BitVec 6) ++ imm8).extractLsb' 8 6 = 0 := BitVec.extractLsb'_append_eq_left
    have himm8 : ((0 : BitVec 6) ++ imm8).extractLsb' 0 8 = imm8 := BitVec.extractLsb'_append_eq_right
    exact decode_encode_of_map rfl rfl ⟨rfl, rfl, hhigh⟩ (congrArg (Instr.setb rd idx) himm8)

/-- Settles O7: a word is put together again from its fields, and the opcode map's entry makes a command
with those fields and zeros in the must-be-zero ones. -/
theorem encodeOfDecode : Obligations.EncodeOfDecode := by
  unfold Obligations.EncodeOfDecode
  intro cmd din i h
  obtain ⟨form, make, hmap, hmbz, hmake⟩ := decode_eq_ok_iff.mp h
  rw [← word_of_fields cmd, word_and_mbz_eq_zero_iff] at hmbz
  rw [← wordFields_of_fields] at hmake
  have hword := encode_of_map hmap hmbz hmake
  rwa [word_of_fields] at hword

end Sys2Proof.Claims
end

section
/-! PROOFS. The step of a legal state: what it can do, that it keeps the state legal and the width (R6, R37,
R39), and what RESET, a waiting block and a refused ISSUE are (R250, R256, R258). -/

namespace Sys2Proof.Machine

variable {s t : State} {cmd : Cmd} {din : Din} {rest : List HostEvent}

/-! ## What a step can do -/

/-- A step that answers a next state waits, or takes an event off the inputs and then completes a command,
raises an error, or follows RESET. -/
theorem step_next_cases (h : step s = .next t) : t = s ∨ ∃ rest,
    (∃ b : Block s.N, t = { s with port := rest, block := b.complete }) ∨
    (∃ e, t = { s with port := rest, block := s.block.afterError e }) ∨
    t = { s with port := rest }.resetRises ∨ t = { s with port := rest }.resetFalls := by
  obtain ⟨_, _, ⟨_, hwait⟩ | ⟨e, rest, _, hevent⟩⟩ := step_cases s t h
  · exact .inl hwait
  refine .inr ⟨rest, ?_⟩
  rcases takeEvent_cases e _ t hevent with
    ⟨cmd, din, _, _, hrun⟩ | ⟨_, _, _, _, hrise⟩ | ⟨_, hrise⟩ | ⟨_, hfall⟩
  · obtain ⟨b, hrun'⟩ | ⟨e, hrun'⟩ :=
      runCommand_eq_finish_or_eq_raise cmd din { s with port := rest }
    · exact .inl ⟨b, Host.Outcome.next.inj (hrun.symm.trans hrun')⟩
    · exact .inr (.inl ⟨e, Host.Outcome.next.inj (hrun.symm.trans hrun')⟩)
  · exact .inr (.inr (.inl hrise))
  · exact .inr (.inr (.inl hrise))
  · exact .inr (.inr (.inr hfall))

theorem step_of_idle (hlegal : s.Legal) (hport : s.port = []) : step s = .next s := by
  obtain ⟨hN, hcode, _⟩ := hlegal
  simp [step, tick, hN.ne', Nat.not_lt.mpr hcode, hport]

theorem step_of_reset_rises (hlegal : s.Legal) (hport : s.port = .reset true :: rest) :
    step s = .next { s with port := rest }.resetRises :=
  hlegal.step_eq_takeEvent hport

theorem takeEvent_issue_of_not_ready (hready : s.ready = false) :
    takeEvent (.issue cmd din) s = .refused .issueWhileNotReady :=
  if_neg (Bool.eq_false_iff.mp hready)

theorem takeEvent_issueThenReset_of_not_ready (hready : s.ready = false) :
    takeEvent (.issueThenReset cmd din) s = .refused .issueWhileNotReady :=
  if_neg (Bool.eq_false_iff.mp hready)

/-! ## Legal states -/

theorem State.resetOf_legal {N : Nat} (hN : 0 < N) : (State.resetOf N).Legal :=
  ⟨hN, Nat.zero_le 5, fun h => absurd (Block.reset_code N) h⟩

/-- Completion shows code 0, whatever was written. -/
theorem State.Legal.complete (hlegal : s.Legal) (b : Block s.N) :
    State.Legal { s with block := b.complete } := by
  obtain ⟨hN, _, _⟩ := hlegal
  exact ⟨hN, Nat.zero_le 5, fun h => absurd b.complete_code h⟩

/-- An error shows one of the codes 1 to 5, and sets STICKY. -/
theorem State.Legal.afterError (hlegal : s.Legal) (e : Error) :
    State.Legal { s with block := s.block.afterError e } := by
  obtain ⟨hN, _, _⟩ := hlegal
  exact ⟨hN, e.code_range.2, fun _ => s.block.afterError_sticky e⟩

theorem State.Legal.resetFalls (hlegal : s.Legal) : s.resetFalls.Legal := by
  cases hready : s.ready with
  | true => rwa [State.resetFalls, if_pos hready]
  | false =>
    obtain ⟨hN, _, _⟩ := hlegal
    rw [s.resetFalls_of_not_ready hready]
    exact State.resetOf_legal hN

theorem State.Legal.step (hlegal : s.Legal) (hstep : step s = .next t) : t.Legal := by
  obtain rfl | ⟨rest, hcases⟩ := step_next_cases hstep
  · exact hlegal
  have htaken : State.Legal { s with port := rest } := hlegal
  obtain ⟨b, rfl⟩ | ⟨e, rfl⟩ | rfl | rfl := hcases
  · exact htaken.complete b
  · exact htaken.afterError e
  · exact htaken.resetRises
  · exact htaken.resetFalls

/-! ## The ports -/

/-- ST as a number: CODE in bits 2 to 0, STICKY in bit 3 (R37). -/
theorem Status.byte_toNat (st : Status) : st.byte.toNat = st.code.toNat + 8 * st.sticky.toNat := by
  obtain ⟨code, sticky⟩ := st
  revert code sticky
  decide

theorem State.outputs_of_ready (hready : s.ready = true) :
    s.outputs = some ⟨s.block.f, s.block.br, s.block.st.byte⟩ :=
  if_pos hready

theorem State.outputs_of_not_ready (hready : s.ready = false) : s.outputs = none :=
  if_neg (Bool.eq_false_iff.mp hready)

/-- The code that an observer reads is the one in ST. -/
theorem Outputs.code_mk (f : Bool) (br : Byte) (st : Status) :
    (Outputs.mk f br st.byte).code = st.code :=
  BitVec.extractLsb'_append_eq_right

end Sys2Proof.Machine

namespace Sys2Proof.Claims

open Sys2Proof.Machine

/-- Settles O16: each thing a step can do keeps a legal state legal. -/
theorem stepKeepsLegalStates : Obligations.StepKeepsLegalStates := by
  unfold Obligations.StepKeepsLegalStates
  exact fun s t hlegal hstep => hlegal.step hstep

/-- Settles O18: nothing that a step can do writes N. -/
theorem stepKeepsTheWidth : Obligations.StepKeepsTheWidth := by
  unfold Obligations.StepKeepsTheWidth
  intro s t hstep
  obtain rfl | ⟨rest, ⟨b, rfl⟩ | ⟨e, rfl⟩ | rfl | rfl⟩ := step_next_cases hstep
  · rfl
  · rfl
  · rfl
  · exact State.resetRises_N _
  · exact State.resetFalls_N _

/-- Settles O11: RESET's rise holds the block, and its fall gives the reset state whatever it holds. -/
theorem resetRestoresEverything : Obligations.ResetRestoresEverything := by
  unfold Obligations.ResetRestoresEverything
  intro s rest hlegal hport
  have hheld : State.Legal { s with port := .reset false :: rest }.resetRises := hlegal.resetRises
  exact ⟨_, step_of_reset_rises hlegal hport, State.resetRises_ready _,
    State.outputs_of_not_ready (State.resetRises_ready _), step_of_reset_falls hheld rfl rfl⟩

/-- Settles O13. -/
theorem issueWhileNotReadyIsRefused : Obligations.IssueWhileNotReadyIsRefused := by
  unfold Obligations.IssueWhileNotReadyIsRefused
  intro s cmd din rest hlegal hready hport
  obtain hport | hport := hport
  · exact (hlegal.step_eq_takeEvent hport).trans (takeEvent_issue_of_not_ready hready)
  · exact (hlegal.step_eq_takeEvent hport).trans (takeEvent_issueThenReset_of_not_ready hready)

/-- Settles O14. -/
theorem outputsShowTheRegisters : Obligations.OutputsShowTheRegisters := by
  unfold Obligations.OutputsShowTheRegisters
  exact fun s => ⟨fun hready => ⟨_, State.outputs_of_ready hready, rfl, rfl, s.block.st.byte_toNat⟩,
    State.outputs_of_not_ready⟩

/-- Settles O15. -/
theorem idleBlockHoldsItsState : Obligations.IdleBlockHoldsItsState := by
  unfold Obligations.IdleBlockHoldsItsState
  exact fun s => step_of_idle

/-- Settles O17. -/
theorem resetStateIsLegal : Obligations.ResetStateIsLegal := by
  unfold Obligations.ResetStateIsLegal
  exact ⟨fun N => State.resetOf_legal, rfl⟩

/-- Settles O2: the word is issued as what it decodes to, at READY = 1. -/
theorem tableWordRunsNext : Obligations.TableWordRunsNext := by
  unfold Obligations.TableWordRunsNext
  intro s w i hlegal hdecode
  have hissued : Issued (s.withFetchWord 32 w) (tableCmd 32 w) (tableDin 32 w) s.port :=
    ⟨hlegal, rfl, rfl⟩
  have hok : decode (tableCmd 32 w) (tableDin 32 w) = .ok i := by
    unfold decodeTableWord at hdecode
    split at hdecode
    next j hj => rw [hj, Option.some.inj hdecode]
    next => cases hdecode
  rw [step_of_issued hissued, runCommand_of_decode_ok hok]
  rfl

/-- Settles O8: the opcode map's entries, and the words' fields, evaluate. -/
theorem sampleWordsDecode : Obligations.SampleWordsDecode := by
  unfold Obligations.SampleWordsDecode
  exact ⟨rfl, rfl, rfl, rfl, rfl, rfl, rfl, rfl, rfl, rfl⟩

end Sys2Proof.Claims
end

section
/-! PROOFS. Runs: every issued command completes in one step (R45, R259), and STICKY after a run tells whether
any of its outputs showed an error (R39, R263). -/

namespace Sys2Proof.Claims

open Sys2Proof.Machine

/-- The step of an issued word writes the block alone, and records an error in STICKY. -/
theorem step_of_issued_records {s : State} {cmd : Cmd} {din : Din} {rest : List HostEvent}
    (hs : Issued s cmd din rest) : ∃ b : Block s.N,
      step s = .next { N := s.N, block := b, ready := true, port := rest } ∧
      b.st.sticky = (s.block.st.sticky || decide (b.st.code ≠ 0)) := by
  obtain ⟨b, hrun, hsticky⟩ := runCommand_recordsErrors cmd din { s with port := rest }
  have hready : s.ready = true := by obtain ⟨_, hready, _⟩ := hs; exact hready
  refine ⟨b, ?_, hsticky⟩
  rw [step_of_issued hs, hrun, hready]

/-- The observation of a run is the first command's outputs, then the observation of the rest. -/
theorem observe_cons_of_step {c : Cmd × Din} {cs : List (Cmd × Din)} {s t : State}
    (hstep : step { s with port := [.issue c.1 c.2] } = .next t) (hready : t.ready = true) :
    observe (c :: cs) s = (observe cs t).map fun r =>
      (r.1, ⟨t.block.f, t.block.br, t.block.st.byte⟩ :: r.2) := by
  simp [observe, hstep, State.outputs_of_ready hready]

/-- A run is observed to its end, and STICKY stays 0 exactly while every output shows code 0. -/
theorem observe_records (cmds : List (Cmd × Din)) (s : State) (hlegal : s.Legal)
    (hready : s.ready = true) : ∃ t outs, observe cmds s = some (t, outs) ∧
      outs.length = cmds.length ∧
      (t.block.st.sticky = false ↔ s.block.st.sticky = false ∧ ∀ o ∈ outs, o.code = 0) := by
  induction cmds generalizing s with
  | nil => exact ⟨s, [], rfl, rfl, by simp⟩
  | cons c cs ih =>
    have hput : State.Legal { s with port := [.issue c.1 c.2] } := hlegal
    obtain ⟨b, hstep, hsticky⟩ := step_of_issued_records ⟨hput, hready, rfl⟩
    obtain ⟨t, outs, hobserve, hlength, hall⟩ := ih _ (hput.step hstep) rfl
    refine ⟨t, ⟨b.f, b.br, b.st.byte⟩ :: outs, ?_, congrArg (· + 1) hlength, ?_⟩
    · rw [observe_cons_of_step hstep rfl, hobserve]; rfl
    · simp [hall, hsticky, Outputs.code_mk, and_assoc]

/-- Settles O19: a word of any kind completes or raises an error, and either writes the block alone. -/
theorem everyIssuedCommandCompletes : Obligations.EveryIssuedCommandCompletes := by
  unfold Obligations.EveryIssuedCommandCompletes
  intro s cmd din rest hs
  obtain ⟨b, hstep, _⟩ := step_of_issued_records hs
  exact ⟨b, hstep⟩

/-- Settles O24: by induction on the run, with STICKY at its start taken into the claim. -/
theorem stickyZeroMeansEveryCommandCompleted : Obligations.StickyZeroMeansEveryCommandCompleted := by
  unfold Obligations.StickyZeroMeansEveryCommandCompleted
  intro cmds s hlegal hready hsticky
  obtain ⟨t, outs, hobserve, hlength, hall⟩ := observe_records cmds s hlegal hready
  exact ⟨t, outs, hobserve, hlength, hall.trans (and_iff_right hsticky)⟩

end Sys2Proof.Claims
end

section
/-! PROOFS. What every command changes and leaves unchanged, the codes it ends in, and the registers its
effect depends on (R32, R34, R36, R69, R221, R228). -/

namespace Sys2Proof

variable {i : Instr} {rd : Reg}

/-! ## A command writes one thing: a register, F or BR -/

theorem Instr.writes_only_reg (h : i.dest = some rd) : i.writesF = false ∧ i.writesBR = false := by
  cases i <;> cases h <;> exact ⟨rfl, rfl⟩

theorem Instr.writes_only_flag (h : i.writesF = true) : i.dest = none ∧ i.writesBR = false := by
  cases i <;> cases h <;> exact ⟨rfl, rfl⟩

theorem Instr.writes_only_byte (h : i.writesBR = true) : i.dest = none ∧ i.writesF = false := by
  cases i <;> cases h <;> exact ⟨rfl, rfl⟩

end Sys2Proof

namespace Sys2Proof.Claims

open Sys2Proof.Machine

/-! ## The frame -/

/-- From s the command i answers a state that differs in the block alone, and there in what i writes, CODE
and STICKY alone; STICKY only with a code that is not 0. -/
def FramedBy (i : Instr) (s : State) (o : Result) : Prop :=
  ∃ b : Block s.N, o = .next { s with block := b } ∧
    (∀ r : Reg, i.dest ≠ some r → b.reg r = s.block.reg r) ∧
    (i.writesF = false → b.f = s.block.f) ∧
    (i.writesBR = false → b.br = s.block.br) ∧
    (b.st.code = 0 → b.st.sticky = s.block.st.sticky)

theorem framedBy_of_ends {i : Instr} {s : State} {o : Result} (h : Ends i s o) : FramedBy i s o := by
  cases h with
  | raise e =>
    exact ⟨_, s.raise_eq e, fun _ _ => rfl, fun _ => rfl, fun _ => rfl,
      fun hcode => absurd hcode e.code_ne_zero⟩
  | reg rd v hdest =>
    refine ⟨_, s.finish_eq _, fun r hr => ?_, fun _ => rfl, fun _ => rfl, fun _ => rfl⟩
    exact s.block.reg_setReg_other rd r v fun heq => hr (heq ▸ hdest)
  | flag v hF =>
    exact ⟨_, s.finish_eq _, fun _ _ => rfl, 
      fun hF' => absurd hF (Bool.eq_false_iff.mp hF'), fun _ => rfl, fun _ => rfl⟩
  | byte v hBR =>
    exact ⟨_, s.finish_eq _, fun _ _ => rfl, fun _ => rfl, 
      fun hBR' => absurd hBR (Bool.eq_false_iff.mp hBR'), fun _ => rfl⟩

/-! ## The same end from two blocks -/

section TwoBlocks

variable {N : Nat} (i : Instr) (b c : Block N) (ready ready' : Bool) (port port' : List HostEvent)

/-- The command i ends in the same way from two blocks: in one of its own errors, or with one write, of the
same value, of the one thing it writes. -/
inductive EndsAlike : Result → Result → Prop where
  | raise (e : Error) (hcode : e.code ∈ codesOf i) :
    EndsAlike (State.raise ⟨N, b, ready, port⟩ e) (State.raise ⟨N, c, ready', port'⟩ e)
  | reg {rd : Reg} {v w : Value N} (hvalue : v = w) (hdest : i.dest = some rd) :
    EndsAlike (State.finish ⟨N, b, ready, port⟩ (b.setReg rd v))
      (State.finish ⟨N, c, ready', port'⟩ (c.setReg rd w))
  | flag {v w : Bool} (hvalue : v = w) (hwrites : i.writesF = true) :
    EndsAlike (State.finish ⟨N, b, ready, port⟩ (b.setF v))
      (State.finish ⟨N, c, ready', port'⟩ (c.setF w))
  | byte {v w : Byte} (hvalue : v = w) (hwrites : i.writesBR = true) :
    EndsAlike (State.finish ⟨N, b, ready, port⟩ (b.setBr v))
      (State.finish ⟨N, c, ready', port'⟩ (c.setBr w))

variable {i b c ready ready' port port'}

/-- A test that has the same result in both blocks decides between an error and another end. -/
theorem EndsAlike.ite {p p' : Prop} [Decidable p] [Decidable p'] {e : Error} {o o' : Result}
    (htest : p ↔ p') (hcode : e.code ∈ codesOf i)
    (h : EndsAlike i b c ready ready' port port' o o') :
    EndsAlike i b c ready ready' port port' (if p then State.raise ⟨N, b, ready, port⟩ e else o)
      (if p' then State.raise ⟨N, c, ready', port'⟩ e else o') := by
  by_cases hp : p
  · rw [if_pos hp, if_pos (htest.mp hp)]; exact .raise e hcode
  · rw [if_neg hp, if_neg (mt htest.mpr hp)]; exact h

/-- Blocks that agree on the sources of a command end it alike. -/
theorem exec_endsAlike (hagree : ∀ r ∈ i.sources, b.reg r = c.reg r) :
    EndsAlike i b c ready ready' port port' (exec i ⟨N, b, ready, port⟩)
      (exec i ⟨N, c, ready', port'⟩) := by
  cases i
  -- one source
  case flips rd a | not rd a | shl1 rd a | shr1 rd a | inc rd a | dec rd a | neg rd a =>
    exact .reg (congrArg _ (hagree a (.head _))) rfl
  case mov rd a => exact .reg (hagree a (.head _)) rfl
  case isneg a | bool a => exact .flag (congrArg _ (hagree a (.head _))) rfl
  case msb a => exact .byte (congrArg _ (hagree a (.head _))) rfl
  case msbns a => exact .byte (congrArg (topCell · &&& 0x7F) (hagree a (.head _))) rfl
  case getb a idx =>
    exact .ite Iff.rfl (.tail _ (.head _)) (.byte (congrArg (cell · _) (hagree a (.head _))) rfl)
  case setb rd idx imm8 =>
    exact .ite Iff.rfl (.tail _ (.head _)) (.reg (congrArg (setCell · _ _) (hagree rd (.head _))) rfl)
  -- two sources
  case and rd a a' | or rd a a' | xor rd a a' | add rd a a' | sub rd a a' | mul rd a a' =>
    exact .reg (congrArg₂ _ (hagree a (.head _)) (hagree a' (.tail _ (.head _)))) rfl
  case eq a a' | lt a a' | le a a' | ge a a' =>
    exact .flag (congrArg₂ _ (hagree a (.head _)) (hagree a' (.tail _ (.head _)))) rfl
  case gt a a' =>
    exact .flag (congrArg₂ gtFn (hagree a (.head _)) (hagree a' (.tail _ (.head _)))) rfl
  case shl rd a a' =>
    have ha' := hagree a' (.tail _ (.head _))
    exact .ite (iff_of_eq (congrArg (sval · < 0) ha')) (.tail _ (.head _))
      (.reg (congrArg₂ (fun v w => shlFn v (sval w).toNat) (hagree a (.head _)) ha') rfl)
  case shr rd a a' =>
    have ha' := hagree a' (.tail _ (.head _))
    exact .ite (iff_of_eq (congrArg (sval · < 0) ha')) (.tail _ (.head _))
      (.reg (congrArg₂ (fun v w => shrFn v (sval w).toNat) (hagree a (.head _)) ha') rfl)
  case div rd a a' | mod rd a a' =>
    have ha' := hagree a' (.tail _ (.head _))
    exact .ite (iff_of_eq (congrArg (· = zeroW N) ha')) (.tail _ (.head _))
      (.reg (congrArg₂ _ (hagree a (.head _)) ha') rfl)
  -- no source
  case zero rd | one rd => exact .reg rfl rfl
  case ldnU8 | ldnU16 | ldnU32 | ldnU64 | ldnS8 | ldnS16 | ldnS32 | ldnS64 =>
    exact .ite Iff.rfl (.tail _ (.head _)) (.reg rfl rfl)

end TwoBlocks

/-! ## What two ends of one kind have in common -/

theorem zero_mem_codesOf (i : Instr) : 0 ∈ codesOf i := by
  cases i <;> exact .head _

section CommonEnds

variable {N : Nat} {i : Instr} {b c : Block N} {ready ready' : Bool} {port port' : List HostEvent}
  {o o' : Result}

/-- A command ends in one of its own codes. -/
theorem EndsAlike.code_mem (h : EndsAlike i b c ready ready' port port' o o') :
    ∃ b' : Block N, o = .next ⟨N, b', ready, port⟩ ∧ b'.st.code ∈ codesOf i := by
  cases h with
  | raise e hcode => exact ⟨_, State.raise_eq _ e, hcode⟩
  | reg => exact ⟨_, State.finish_eq _ _, zero_mem_codesOf i⟩
  | flag => exact ⟨_, State.finish_eq _ _, zero_mem_codesOf i⟩
  | byte => exact ⟨_, State.finish_eq _ _, zero_mem_codesOf i⟩

/-- Ends alike show the same code, and where it is 0 the same value in what the command writes. -/
theorem EndsAlike.same_results (h : EndsAlike i b c ready ready' port port' o o') :
    ∃ b' c' : Block N, o = .next ⟨N, b', ready, port⟩ ∧ o' = .next ⟨N, c', ready', port'⟩ ∧
      b'.st.code = c'.st.code ∧
      (b'.st.code = 0 → (∀ r, i.dest = some r → b'.reg r = c'.reg r) ∧
        (i.writesF = true → b'.f = c'.f) ∧ (i.writesBR = true → b'.br = c'.br)) := by
  cases h with
  | raise e => exact ⟨_, _, rfl, rfl, rfl, fun hcode => absurd hcode e.code_ne_zero⟩
  | @reg rd v _ hvalue hdest =>
    subst hvalue
    obtain ⟨hF, hBR⟩ := Instr.writes_only_reg hdest
    refine ⟨_, _, rfl, rfl, rfl, fun _ => ⟨fun r hr => ?_, fun h => absurd h (Bool.eq_false_iff.mp hF),
      fun h => absurd h (Bool.eq_false_iff.mp hBR)⟩⟩
    obtain rfl : rd = r := Option.some.inj (hdest.symm.trans hr)
    exact (b.reg_setReg_same rd v).trans (c.reg_setReg_same rd v).symm
  | flag hvalue hwrites =>
    obtain ⟨hdest, hBR⟩ := Instr.writes_only_flag hwrites
    exact ⟨_, _, rfl, rfl, rfl, fun _ => ⟨fun r hr => (nomatch hdest.symm.trans hr), fun _ => hvalue,
      fun h => absurd h (Bool.eq_false_iff.mp hBR)⟩⟩
  | byte hvalue hwrites =>
    obtain ⟨hdest, hF⟩ := Instr.writes_only_byte hwrites
    exact ⟨_, _, rfl, rfl, rfl, fun _ => ⟨fun r hr => (nomatch hdest.symm.trans hr),
      fun h => absurd h (Bool.eq_false_iff.mp hF), fun _ => hvalue⟩⟩

/-- A command that writes no register and ends alike in the block that it left leaves that block again. -/
theorem EndsAlike.repeats (h : EndsAlike i b c ready ready' port port' o o') (hdest : i.dest = none)
    (ho : o = .next ⟨N, c, ready, port⟩) : o' = .next ⟨N, c, ready', port'⟩ := by
  cases h with
  | raise e => cases ho; rfl
  | reg _ hdest' => exact nomatch hdest.symm.trans hdest'
  | flag hvalue => subst hvalue; cases ho; rfl
  | byte hvalue => subst hvalue; cases ho; rfl

end CommonEnds

/-! ## The obligations -/

/-- Settles O21: a command raises only its own error, and a word that is no command raises code 2. -/
theorem commandsEndInTheirOwnCodes : Obligations.CommandsEndInTheirOwnCodes := by
  unfold Obligations.CommandsEndInTheirOwnCodes
  refine ⟨fun s i => ?_, fun s cmd din e hdecode => runCommand_of_decode_error hdecode s⟩
  have h : EndsAlike i s.block s.block s.ready s.ready s.port s.port (exec i s) (exec i s) :=
    exec_endsAlike fun _ _ => rfl
  exact h.code_mem

/-- Settles O22: an error writes ST alone, and completion keeps all but the one thing written. -/
theorem frameOfEveryCommand : Obligations.FrameOfEveryCommand := by
  unfold Obligations.FrameOfEveryCommand
  exact fun s i => framedBy_of_ends (exec_ends s i)

/-- Settles O25: blocks that agree on the sources end the command alike. -/
theorem commandsDependOnlyOnTheirSources : Obligations.CommandsDependOnlyOnTheirSources := by
  unfold Obligations.CommandsDependOnlyOnTheirSources
  intro N b c ready ready' port port' i hagree
  exact (exec_endsAlike hagree).same_results

/-- Settles O26: the first time leaves the sources alone, so the second ends alike. -/
theorem readOnlyCommandsRepeat : Obligations.ReadOnlyCommandsRepeat := by
  unfold Obligations.ReadOnlyCommandsRepeat
  intro s i hdest
  obtain ⟨b, hexec, hregs, _⟩ := framedBy_of_ends (exec_ends s i)
  have hagree : ∀ r ∈ i.sources, s.block.reg r = b.reg r :=
    fun r _ => (hregs r (by simp [hdest])).symm
  have h : EndsAlike i s.block b s.ready s.ready s.port s.port (exec i s)
      (exec i { s with block := b }) := exec_endsAlike hagree
  exact ⟨_, hexec, h.repeats hdest hexec⟩

end Sys2Proof.Claims
end

section
/-! PROOFS. SHL and SHR as repeated single-bit steps (R137, R138), and the native value that LDN loads
(R202, R204). -/

namespace Sys2Proof.Machine

variable {N : Nat}

/-- s doublings multiply by `2^s`, modulo `2^W` each time or once at the end. -/
theorem shlSteps_eq (a : Value N) (s : Nat) : shlSteps s a = BitVec.ofNat (8 * N) (a.toNat * 2 ^ s) := by
  induction s generalizing a with
  | zero => simp [shlSteps]
  | succ s ih =>
    rw [shlSteps, ih, shl1Fn_eq, BitVec.toNat_ofNat]
    apply BitVec.eq_of_toNat_eq
    rw [BitVec.toNat_ofNat, BitVec.toNat_ofNat, Nat.mod_mul_mod, Nat.pow_succ']
    congr 1
    ring

/-- s halvings divide by `2^s`: each rounds down. -/
theorem shrSteps_eq (a : Value N) (s : Nat) : shrSteps s a = BitVec.ofNat (8 * N) (a.toNat / 2 ^ s) := by
  induction s generalizing a with
  | zero => simp [shrSteps]
  | succ s ih =>
    have hhalf : (shr1Fn a).toNat = a.toNat / 2 := by
      rw [shr1Fn_eq, BitVec.toNat_ofNat, Nat.mod_eq_of_lt]
      exact Nat.lt_of_le_of_lt (Nat.div_le_self _ 2) a.isLt
    rw [shrSteps, ih, hhalf, Nat.div_div_eq_div_mul, Nat.pow_succ']

/-- The signed value of a loaded native value of a signed type (R202). -/
theorem toInt_nativeCells_signed {k : Nat} (hpos : 0 < k) (hk : k ≤ N) (din : Din) :
    (ofCells N (nativeCells N k true din)).toInt = (din.setWidth (8 * k)).toInt := by
  rw [ofCells_nativeCells_signed hpos hk, BitVec.toInt_signExtend_of_le (by omega)]

/-- An unsigned native value of fewer bytes than the register leaves its sign bit 0 (R202). -/
theorem toInt_nativeCells_unsigned {k : Nat} (hk : k < N) (din : Din) :
    (ofCells N (nativeCells N k false din)).toInt = ((din.setWidth (8 * k)).toNat : Int) := by
  rw [ofCells_nativeCells_unsigned hk.le]
  rw [← BitVec.setWidth'_eq (by omega : 8 * k ≤ 8 * N)]
  exact BitVec.toInt_setWidth'_of_lt (by omega)

end Sys2Proof.Machine

namespace Sys2Proof.Claims

open Sys2Proof.Machine

/-- Settles O36: the closed form and the repeated form are one multiplication or division by `2^s`. -/
theorem shiftsAreRepeatedSingleSteps : Obligations.ShiftsAreRepeatedSingleSteps := by
  unfold Obligations.ShiftsAreRepeatedSingleSteps
  intro N a s
  rw [shlFn_eq, shlSteps_eq, shrFn_eq, shrSteps_eq]
  exact ⟨rfl, rfl⟩

/-- Settles O48: sign and zero extension keep the value; an unsigned type as wide as the register is
read there as a signed one. -/
theorem nativeValuesRoundTrip : Obligations.NativeValuesRoundTrip := by
  unfold Obligations.NativeValuesRoundTrip
  intro N k din hpos hk _
  refine ⟨toInt_nativeCells_signed hpos hk din, fun hlt => toInt_nativeCells_unsigned hlt din, ?_⟩
  rintro rfl
  rw [ofCells_nativeCells_unsigned hk, BitVec.setWidth_eq]

end Sys2Proof.Claims
end

section
/-! PROOFS. The assembler reads back what it writes (R96), and the disassembly of every word (R97). -/

namespace Sys2Proof.Claims

open Sys2Proof.Machine

/-! ## Operands that go on DIN -/

theorem idxOperand_toNat (idx : Din) : idxOperand idx.toNat = some idx := by
  have hlt : (idx.toNat : Int) < 2 ^ 64 := by have := idx.isLt; omega
  rw [idxOperand, if_pos ⟨Int.natCast_nonneg _, hlt⟩, BitVec.ofInt_natCast, BitVec.ofNat_toNat,
    BitVec.setWidth_eq]

theorem imm8Operand_toNat (imm8 : Byte) : imm8Operand imm8.toNat = some imm8 := by
  have hlt : (imm8.toNat : Int) < 256 := by have := imm8.isLt; omega
  rw [imm8Operand, if_pos ⟨Int.natCast_nonneg _, hlt⟩, BitVec.ofInt_natCast, BitVec.ofNat_toNat,
    BitVec.setWidth_eq]

/-- DIN in an unsigned type's range is read back from the native value (R96). -/
theorem nativeOperand_unsigned {bits : Nat} {din : Din} (h : dinIsUnsigned bits din = true) :
    nativeOperand bits false (din.setWidth bits).toNat = some din := by
  have hlt : ((din.setWidth bits).toNat : Int) < 2 ^ bits := by
    exact_mod_cast (din.setWidth bits).isLt
  have hdin : (din.setWidth bits).setWidth 64 = din := beq_iff_eq.mp h
  rw [nativeOperand, if_neg Bool.false_ne_true, if_pos ⟨Int.natCast_nonneg _, hlt⟩,
    BitVec.ofInt_natCast, BitVec.ofNat_toNat, hdin]

/-- DIN in a signed type's range is read back from the native value (R96). -/
theorem nativeOperand_signed {bits : Nat} {din : Din} (h : dinIsSigned bits din = true) :
    nativeOperand bits true (din.setWidth bits).toInt = some din := by
  have hdin : (din.setWidth bits).signExtend 64 = din := beq_iff_eq.mp h
  rw [nativeOperand, if_pos rfl, if_pos ⟨BitVec.le_toInt _, BitVec.toInt_lt⟩]
  exact congrArg some hdin

/-! ## Lines of operands -/

theorem asmGetb_operands (a : Reg) (idx : Din) :
    asmGetb (operands (.getb a idx)) = some (.getb a idx) := by
  simp [asmGetb, operands, idxOperand_toNat]

theorem asmSetb_operands (a : Reg) (idx : Din) (imm8 : Byte) :
    asmSetb (operands (.setb a idx imm8)) = some (.setb a idx imm8) := by
  simp [asmSetb, operands, idxOperand_toNat, imm8Operand_toNat]

theorem asmLdn_of_nativeOperand {bits : Nat} {signed : Bool} {mk : Reg → Din → Instr} {z : Int}
    {din : Din} (h : nativeOperand bits signed z = some din) (a : Reg) :
    asmLdn bits signed mk [.reg a, .int z] = some (mk a din) := by
  simp [asmLdn, h]

/-- A line that is no pseudo-instruction is what its mnemonic's entry makes of the operands. -/
theorem assemble_of_entry {N : Nat} {mnemonic : String} {ops : List Operand} {asm : Asm} {i : Instr}
    (hpseudo : pseudo N mnemonic ops = none) (hentry : asmTable.lookup mnemonic = some asm)
    (hasm : asm ops = some i) : assemble N mnemonic ops = some [i] := by
  simp [assemble, assembleCommand, hpseudo, hentry, hasm]

/-! ## The obligations -/

/-- Settles O52: no command's own line is a pseudo-instruction, and its mnemonic's entry gives it back; the
operands that go on DIN are back in range. -/
theorem assemblerReadsBackCommands : Obligations.AssemblerReadsBackCommands := by
  unfold Obligations.AssemblerReadsBackCommands
  intro N i hwf
  cases i
  case getb a idx => exact assemble_of_entry rfl rfl (asmGetb_operands a idx)
  case setb a idx imm8 => exact assemble_of_entry rfl rfl (asmSetb_operands a idx imm8)
  case ldnU8 a din | ldnU16 a din | ldnU32 a din | ldnU64 a din =>
    exact assemble_of_entry rfl rfl (asmLdn_of_nativeOperand (nativeOperand_unsigned hwf) a)
  case ldnS8 a din | ldnS16 a din | ldnS32 a din | ldnS64 a din =>
    exact assemble_of_entry rfl rfl (asmLdn_of_nativeOperand (nativeOperand_signed hwf) a)
  -- register operands alone
  all_goals exact assemble_of_entry rfl rfl rfl

/-- Settles O53: the decoder's answer selects the text, and a decoded word has a row with its mnemonic. -/
theorem disassemblyOfEveryWord : Obligations.DisassemblyOfEveryWord := by
  unfold Obligations.DisassemblyOfEveryWord
  refine fun cmd din => ⟨fun e hdecode => ?_, fun i hdecode => ?_⟩
  · simp [disassemble, hdecode]
  · obtain ⟨row, hrow, hmatch, hname⟩ := exists_row_of_decode hdecode
    refine ⟨row, hrow, hmatch, ?_⟩
    simp [disassemble, hdecode, hname]

end Sys2Proof.Claims
end
